-- ==== Sys2Proof/Word.lean ====
section
/-! DEFINITION. The bit-vector types of ENC: an output byte (R5, BYTE = 8) and the operand x
(R5, XLEN = 64). Bits are numbered from the least significant one, bit 0 (R8). -/

namespace Sys2Proof

/-- One byte of an encoded sequence, of BUF and of the sink stream (R5: BYTE = 8). -/
abbrev Byte := BitVec 8

/-- The operand x, an unsigned 64-bit integer (R5: XLEN = 64, R60). -/
abbrev Operand := BitVec 64

/-- The 4-bit registers N and IDX (R20). -/
abbrev Nibble := BitVec 4

end Sys2Proof
end

