-- ==== Sys2Proof/Config.lean ====
section
/-! DEFINITION. The parameters of the spec (R5, R6) and the free values: constants with no body,
one for every value the spec leaves unspecified (93_implementation_defined.md U4 to U9).

DESIGN CHOICE, log 17, for every free value below: it is applied to the number of the draw
(`freeOffByte` to the index read) and to nothing else, so two instances, or two runs, that stand at
the same number draw the same value. The
spec gives no relation between them (R12, R32, R153). -/

namespace Sys2Proof.Config

/-- DBITS of R5: data bits per byte of length, classes 1 to 8. -/
def dataBitsPerByte : Nat := 7

/-- NPACK of R5: the highest class that packs marker bits and data bits together. -/
def packedMax : Nat := 8

/-- FAULT_W of R6 and R29: the pin width of a sink failure value, an open parameter of the spec,
0 included. -/
opaque faultWidth : Nat

/-- BUF[j] for j >= N after ACCEPT, and all of BUF after RESPOND and RESET (R22, R33 (d), R32;
U5, U6). DESIGN CHOICE, logs 3 and 17. -/
opaque freeBuf : Nat → Vector Byte 9

/-- N less one after RESPOND and RESET (R33 (d), R32; U6). Only the codes 1 to 9 ever occur
(R20, R23). DESIGN CHOICE, logs 3 and 17. -/
opaque freeLength : Nat → Fin 9

/-- IDX after RESPOND and RESET (R33 (d), R32; U6). Only the codes 0 to 9 ever occur (R20, R24).
DESIGN CHOICE, logs 3 and 17. -/
opaque freeIndex : Nat → Fin 10

/-- ERR after RESPOND and RESET (R33 (d), R32; U6). DESIGN CHOICE, logs 3 and 17. -/
opaque freeErr : Nat → Bool

/-- FV after RESPOND and RESET (R33 (d), R32; U6, U7). DESIGN CHOICE, logs 3 and 17. -/
opaque freeFault : Nat → BitVec faultWidth

/-- What BLD builds for a pair (x, n) with n other than class(x) (R110; U4). DESIGN CHOICE,
logs 7 and 17. -/
opaque freeForm : Nat → Vector Byte 9

/-- A read of BUF outside its nine bytes, which no reachable state makes (R33 (a)). DESIGN CHOICE,
log 8. -/
opaque freeOffByte : Nat → Byte

/-- `byte_data` while `byte_valid` = 0 (R32; U8). DESIGN CHOICE, logs 9 and 17. -/
opaque freeByteData : Nat → Byte

/-- `rsp_err` while `rsp_valid` = 0 (R32; U8). DESIGN CHOICE, logs 9 and 17. -/
opaque freeRspErr : Nat → Bool

/-- `rsp_count` while `rsp_valid` = 0 (R32; U8). DESIGN CHOICE, logs 9 and 17. -/
opaque freeRspCount : Nat → Nibble

/-- `rsp_fault` while `rsp_valid` = 0 (R32; U8). DESIGN CHOICE, logs 9 and 17. -/
opaque freeRspFault : Nat → BitVec faultWidth

/-- How many edges ENC may hold back the next thing it is to offer: finitely many, and no number of
them is given (R31 (c), R131; U9). DESIGN CHOICE, logs 11 and 17. -/
opaque freePatience : Nat → Nat

end Sys2Proof.Config

namespace Sys2Proof

/-- SinkFault of R6: the value a failing sink hands to ENC, FAULT_W bits at the pins. -/
abbrev SinkFault := BitVec Config.faultWidth

end Sys2Proof
end

