-- ==== Sys2Proof/Syntax.lean ====
section
/-! DEFINITION. The rows of spec/opcode_table.json as one inductive: the request ENCODE (R60) and
the nine output forms ENC1 to ENC9 (R62), each with its data bits at the width of its pattern. -/

namespace Sys2Proof

/-- What ENC carries out. `encode x` is the one request (R60, R120). `encN v` is the form of class
n with the data bits v = x[7n-1:0] (R62; x[63:0] for n = 9): it builds the n bytes of R100 to R108
and begins their delivery. -/
inductive Instr where
  | encode (x : BitVec 64)
  | enc1 (v : BitVec 7)
  | enc2 (v : BitVec 14)
  | enc3 (v : BitVec 21)
  | enc4 (v : BitVec 28)
  | enc5 (v : BitVec 35)
  | enc6 (v : BitVec 42)
  | enc7 (v : BitVec 49)
  | enc8 (v : BitVec 56)
  | enc9 (v : BitVec 64)
deriving DecidableEq, Repr

end Sys2Proof
end

