-- ==== Sys2Proof/Machine/State.lean ====
section
/-! DEFINITION. The state of one ENC (10_state.md R20), what the run has put into the sink and
answered (20_memory.md R40, 42_encode_operation.md R133), what the outside agents will do
(R121, R135), and the reasons a step can stop. -/

namespace Sys2Proof.Machine

/-- PH, the phase of the operation (R21). Its binary code is not observable (U11). -/
inductive Phase where
  /-- No operation is in flight. -/
  | idle
  /-- A byte of the operation in flight is still to be accepted by the sink. -/
  | send
  /-- The operation has ended and REQ has not yet taken its response. -/
  | resp
deriving DecidableEq, Repr

/-- The response of an ended operation: `rsp_err`, `rsp_count`, `rsp_fault` (R29, R127). With
`err = false` the fault field is whatever FV holds, which the spec leaves unspecified (R25, U7). -/
structure Response where
  err : Bool
  count : Nibble
  fault : SinkFault
deriving DecidableEq, Repr

/-- How an accepted operation ended, with the operand of its ACCEPT (R133, R161). -/
inductive Ended where
  /-- REQ took this response (R127). -/
  | responded (x : Operand) (r : Response)
  /-- A reset cut the operation off when IDX was this; no response is given (R161). -/
  | abandoned (x : Operand) (count : Nibble)
deriving DecidableEq, Repr

/-- The levels of ENC's input ports at one rising edge of `clk` (R29), and with them the one
liberty ENC itself has at an edge: `hold`, to keep its ready or valid at 0 (R31 (c)), which it has
only while the state's `patience` lasts (R131). -/
structure Edge where
  rst : Bool
  reqValid : Bool
  reqX : Operand
  byteReady : Bool
  byteFail : Bool
  byteFault : SinkFault
  rspReady : Bool
  hold : Bool
deriving DecidableEq, Repr

/-- The machine. The first six fields are ENC's own (R20); `sink` is the sink stream S (R40);
`operand` and `history` are the observation of the run (R133); the rest is the model's: the
schedule of the outside agents, the pin-level memory of R31 (a) and (c), the slot of a form and the
counter of free values. -/
structure State where
  /-- PH (R21). -/
  ph : Phase
  /-- BUF[0..8] (R22). -/
  buf : Vector Byte 9
  /-- N (R23). -/
  n : Nibble
  /-- IDX (R24). -/
  idx : Nibble
  /-- ERR (R25). -/
  err : Bool
  /-- FV (R25). -/
  fv : SinkFault
  /-- S, the bytes the sink accepted since the start of the run, oldest first (R40). -/
  sink : List Byte
  /-- The model's own: the operand of the last ACCEPT, which R133 pairs with a response. ENC keeps
  no copy of it (R28 (a)) and no output depends on it. -/
  operand : Operand
  /-- The model's own: every operation that has ended, oldest first (R133 (b), R161). -/
  history : List Ended
  /-- The model's own: the levels at the coming edges, the next one first (R6, R135). When none is
  left every edge is quiet (log 4). -/
  inputs : List Edge
  /-- The model's own, at pin level: the valid of the present offer has been raised and so stays
  raised (R31 (a)). -/
  raised : Bool
  /-- The model's own, at pin level: the edges ENC may still hold back what it is to offer now
  (R31 (c), R131; log 11). -/
  patience : Nat
  /-- The model's own: an output form to be carried out next by itself, none at reset and none ever
  put there by a step (log 6). -/
  slot : Option Instr
  /-- The model's own: the number of the next free value (log 3). -/
  fresh : Nat
deriving DecidableEq, Repr

/-- The reasons the machine stops with a fault: none. No value, answer or reset stops ENC
(R69, R142; 93_implementation_defined.md: "Nothing in this hardware is a `fault`"). -/
inductive Fault where
deriving DecidableEq, Repr

/-- The reasons the model gives no meaning. ENC reads no bytes, so no malformed sequence is among them
(R154, U1). -/
inductive Refusal where
  /-- Raised by exec for an instruction without a meaning; no arm raises it. Safe: nothing can be
  proved of such a step. -/
  | notModelled (mnemonic : String)
deriving DecidableEq, Repr

/-- The machine right after a reset edge, at the start of a run (R32, R133, R160). R32 states PH;
the values of BUF, N, IDX, ERR and FV it calls unspecified, and the ones here are log 1. S0 is
empty, and the model's own fields start at the values of log 2. -/
def State.reset : State where
  ph := .idle
  buf := #v[0#8, 0#8, 0#8, 0#8, 0#8, 0#8, 0#8, 0#8, 0#8]
  n := 1#4
  idx := 0#4
  err := false
  fv := 0#Config.faultWidth
  sink := []
  operand := 0#64
  history := []
  inputs := []
  raised := false
  patience := 0
  slot := none
  fresh := 0

end Sys2Proof.Machine
end

