-- ==== Sys2Proof/Machine/Flags.lean ====
section
/-! DEFINITION. What a state shows: the derived level `busy` (R27), the read of BUF (R9, R123), and
the response built from ERR, IDX and FV (R127, R141). -/

namespace Sys2Proof.Machine

/-- `busy` = 1 exactly when PH is SEND or RESP (R27). -/
def busy (s : State) : Bool :=
  match s.ph with
  | .idle => false
  | .send => true
  | .resp => true

/-- BUF[i] (R9). Outside 0..8, which no reachable state reads (R33 (a)), a free value (log 8). -/
def bufAt (s : State) (i : Nat) : Byte := s.buf.getD i (Config.freeOffByte i)

/-- The byte on offer in SEND, BUF[IDX] (R123). -/
def offeredByte (s : State) : Byte := bufAt s s.idx.toNat

/-- IDX + 1 = N: the byte on offer is the last one (R125). -/
def lastByte (s : State) : Bool := s.idx.toNat + 1 == s.n.toNat

/-- The response of R127: ERR, IDX and FV. -/
def response (s : State) : Response := ⟨s.err, s.idx, s.fv⟩

end Sys2Proof.Machine
end

