-- ==== Sys2Proof/Machine/Classify.lean ====
section
/-! DEFINITION. CLS, the magnitude-to-length classifier (40_classify.md): class(x) by its
definition (R82), by the cascade (R84) and by the highest set bit (R85). All are functions of x
alone (R89). -/

namespace Sys2Proof.Machine

/-- bits(n) = 7·n, n in 1..8 (R80). -/
def bits (n : Nat) : Nat := Config.dataBitsPerByte * n

/-- x < 2^bits(n), an unsigned comparison (R82, R87). -/
def fits (x : Operand) (n : Nat) : Bool := decide (x.toNat < 2 ^ bits n)

/-- T(n), the largest x of class n, n in 1..8 (R81). -/
def threshold (n : Nat) : Nat := 2 ^ bits n - 1

/-- class(x): the smallest n in 1..8 that x fits, else 9 (R82, R83). -/
def lengthClass (x : Operand) : Nat :=
  ((List.range' 1 Config.packedMax).find? (fits x)).getD 9

/-- The loop of R84: from n, with as many tests left as `fuel` says. -/
def cascadeFrom (x : Operand) (fuel n : Nat) : Nat :=
  match fuel with
  | 0 => n
  | fuel + 1 => if fits x n then n else cascadeFrom x fuel (n + 1)

/-- The selection cascade of R84: start at n = 1, at most eight tests. -/
def cascadeClass (x : Operand) : Nat := cascadeFrom x Config.packedMax 1

/-- The index of the highest one-bit of x, none for x = 0 (R85). -/
def highestBit (x : Operand) : Option Nat :=
  (List.range 64).reverse.find? (fun p => x.getLsbD p)

/-- The highest-set-bit method of R85, with its two corners: x = 0 is class 1, and p in 56..63 is
class 9. -/
def highestBitClass (x : Operand) : Nat :=
  match highestBit x with
  | none => 1
  | some p => if p ≤ 55 then p / 7 + 1 else 9

end Sys2Proof.Machine
end

