-- ==== Sys2Proof/Machine/Operands.lean ====
section
/-! DEFINITION. BLD, the marker-and-payload builder (41_build.md): the masks, the marker, the
payload, the nine forms one by one (R100 to R108) and encode(x) (R111). -/

namespace Sys2Proof.Machine

/-- prefix_mask(n) = (0xff << (9 - n)) & 0xff, n in 1..8 (R95, 90_conflicts.md C1). -/
def prefixMask (n : Nat) : Byte := 0xff#8 <<< (9 - n)

/-- data_mask(n) = (1 << (8 - n)) - 1, n in 1..8 (R96). -/
def dataMask (n : Nat) : Byte := (1#8 <<< (8 - n)) - 1#8

/-- (x >> (8·k)) & 0xff as a byte (R99, R108). -/
def byteOf (x : Operand) (k : Nat) : Byte := ((x >>> (8 * k)) &&& 0xff#64).setWidth 8

/-- The marker byte of class n in 1..8 (R97). -/
def marker (x : Operand) (n : Nat) : Byte :=
  prefixMask n ||| ((x >>> (8 * (n - 1))) &&& (dataMask n).setWidth 64).setWidth 8

/-- The bytes (x >> (8·k)) & 0xff for k = m - 1 down to 0 (R99, R108, R111). -/
def bytesDown (x : Operand) (m : Nat) : List Byte :=
  match m with
  | 0 => []
  | k + 1 => byteOf x k :: bytesDown x k

/-- encode(x) of R111: the marker of class(x), then the payload, most significant byte first. -/
def encodeBytes (x : Operand) : List Byte :=
  if lengthClass x = 9 then 0xff#8 :: bytesDown x 8
  else marker x (lengthClass x) :: bytesDown x (lengthClass x - 1)

/-- ENC1(x) (R100). -/
def form1 (x : Operand) : List Byte :=
  [0x00#8 ||| ((x >>> 0) &&& 0x7f#64).setWidth 8]

/-- ENC2(x) (R101). -/
def form2 (x : Operand) : List Byte :=
  [0x80#8 ||| ((x >>> 8) &&& 0x3f#64).setWidth 8, byteOf x 0]

/-- ENC3(x) (R102). -/
def form3 (x : Operand) : List Byte :=
  [0xc0#8 ||| ((x >>> 16) &&& 0x1f#64).setWidth 8, byteOf x 1, byteOf x 0]

/-- ENC4(x) (R103). -/
def form4 (x : Operand) : List Byte :=
  [0xe0#8 ||| ((x >>> 24) &&& 0x0f#64).setWidth 8, byteOf x 2, byteOf x 1, byteOf x 0]

/-- ENC5(x) (R104). -/
def form5 (x : Operand) : List Byte :=
  [0xf0#8 ||| ((x >>> 32) &&& 0x07#64).setWidth 8, byteOf x 3, byteOf x 2, byteOf x 1, byteOf x 0]

/-- ENC6(x) (R105). -/
def form6 (x : Operand) : List Byte :=
  [0xf8#8 ||| ((x >>> 40) &&& 0x03#64).setWidth 8, byteOf x 4, byteOf x 3, byteOf x 2, byteOf x 1,
    byteOf x 0]

/-- ENC7(x) (R106). -/
def form7 (x : Operand) : List Byte :=
  [0xfc#8 ||| ((x >>> 48) &&& 0x01#64).setWidth 8, byteOf x 5, byteOf x 4, byteOf x 3, byteOf x 2,
    byteOf x 1, byteOf x 0]

/-- ENC8(x) (R107). -/
def form8 (x : Operand) : List Byte :=
  [0xfe#8 ||| ((x >>> 56) &&& 0x00#64).setWidth 8, byteOf x 6, byteOf x 5, byteOf x 4, byteOf x 3,
    byteOf x 2, byteOf x 1, byteOf x 0]

/-- ENC9(x), the escape form (R108). -/
def form9 (x : Operand) : List Byte :=
  [0xff#8, byteOf x 7, byteOf x 6, byteOf x 5, byteOf x 4, byteOf x 3, byteOf x 2, byteOf x 1,
    byteOf x 0]

/-- ENCn(x) for n in 1..9, the length-class switch of R112; no form for another n. -/
def formBytes (n : Nat) (x : Operand) : Option (List Byte) :=
  match n with
  | 1 => some (form1 x)
  | 2 => some (form2 x)
  | 3 => some (form3 x)
  | 4 => some (form4 x)
  | 5 => some (form5 x)
  | 6 => some (form6 x)
  | 7 => some (form7 x)
  | 8 => some (form8 x)
  | 9 => some (form9 x)
  | _ => none

end Sys2Proof.Machine
end

