-- ==== Sys2Proof/Machine/Ops.lean ====
section
/-! DEFINITION. The steps of ENC at the level of transfers (R121): ACCEPT, EMIT-accepted,
EMIT-failed, which raises the one exception SinkFail (R143), RESPOND, which ends a failed operation
like any other (R146), and RESET. -/

namespace Sys2Proof.Machine

/-- BUF after an ACCEPT: the sequence in BUF[0..], and for the rest the given unspecified bytes
(R22, R122). -/
def loadBuf (bytes : List Byte) (rest : Vector Byte 9) : Vector Byte 9 :=
  #v[bytes.getD 0 rest[0], bytes.getD 1 rest[1], bytes.getD 2 rest[2], bytes.getD 3 rest[3],
     bytes.getD 4 rest[4], bytes.getD 5 rest[5], bytes.getD 6 rest[6], bytes.getD 7 rest[7],
     bytes.getD 8 rest[8]]

/-- ENC turns to the next thing it is to offer: its ready or valid is not up yet, and it may be held
back for a number of edges that is finite and free (R31 (c), R131; logs 11 and 17). -/
def newOffer (s : State) : State :=
  { s with raised := false, patience := Config.freePatience s.fresh, fresh := s.fresh + 1 }

/-- ACCEPT of operand x with length n and the built sequence `bytes` (R122). FV is not written.
The rest of BUF is free (U5), and equal in instances of equal `fresh`: log 17. -/
def accept (x : Operand) (n : Nat) (bytes : List Byte) (s : State) : State :=
  { newOffer s with
    n := BitVec.ofNat 4 n
    buf := loadBuf bytes (Config.freeBuf s.fresh)
    idx := 0#4
    err := false
    ph := .send
    operand := x }

/-- SinkAppend with the answer `accept`: S <- S ++ [b] (R41). -/
def sinkAppend (b : Byte) (s : State) : State := { s with sink := s.sink ++ [b] }

/-- EMIT-accepted: BUF[IDX] enters S, IDX advances, and after the last byte the operation has ended
(R124, R125). -/
def emitAccepted (s : State) : State :=
  { newOffer (sinkAppend (offeredByte s) s) with
    idx := s.idx + 1#4
    ph := if lastByte s then .resp else .send }

/-- raise SinkFail(e, IDX), the entry into the one exception (R143, R126): IDX, N, BUF and S stay. -/
def raiseSinkFail (e : SinkFault) (s : State) : State :=
  { newOffer s with
    err := true
    fv := e
    ph := .resp }

/-- What PH = IDLE leaves of the other elements: unspecified values (R33 (d), R32; U6). DESIGN CHOICE,
log 17: they depend on `fresh` alone, so two instances or runs of equal `fresh` hold equal ones,
which the spec does not say (R12, R32, R153). -/
def forget (s : State) : State :=
  { newOffer s with
    ph := .idle
    buf := Config.freeBuf s.fresh
    n := BitVec.ofNat 4 ((Config.freeLength s.fresh).val + 1)
    idx := BitVec.ofNat 4 (Config.freeIndex s.fresh).val
    err := Config.freeErr s.fresh
    fv := Config.freeFault s.fresh }

/-- RESPOND: REQ has the response, and PH <- IDLE (R127). It is also the return from SinkFail
(R146). -/
def respond (s : State) : State :=
  { forget s with history := s.history ++ [.responded s.operand (response s)] }

/-- RESET: PH <- IDLE, everything else of ENC unspecified, S unchanged (R160, R161). An operation
in flight is abandoned and gets no response. -/
def resetStep (s : State) : State :=
  { forget s with
    history := if busy s then s.history ++ [.abandoned s.operand s.idx] else s.history }

/-- The sequence a form of length n delivers for operand x: `bytes` where n is class(x), and an
unspecified one where it is not (R110, U4). -/
def builtBytes (x : Operand) (n : Nat) (bytes : List Byte) (s : State) : List Byte :=
  if lengthClass x = n then bytes else (Config.freeForm s.fresh).toList.take n

/-- ACCEPT where it is enabled. In SEND and RESP it is not: the operand waits and nothing changes
(R122, R128). -/
def acceptIfIdle (x : Operand) (n : Nat) (bytes : List Byte) (s : State) : State :=
  match s.ph with
  | .idle => accept x n bytes s
  | .send => s
  | .resp => s

end Sys2Proof.Machine
end

