-- ==== Sys2Proof/Machine/Encode.lean ====
section
/-! DEFINITION. The family REQ of the opcode table: ENCODE (R120). Its first step, ACCEPT, is the
instruction's own; the EMIT and RESPOND steps that follow wait for the other agents and are the
machine's (R121). -/

namespace Sys2Proof.Machine

/-- ENCODE x: ACCEPT(x) with N <- class(x) and BUF <- encode(x) (R120, R122). -/
def execEncode (x : Operand) (s : State) : Host.Outcome State Fault Refusal :=
  .next (acceptIfIdle x (lengthClass x) (encodeBytes x) s)

end Sys2Proof.Machine
end

