-- ==== Sys2Proof/Machine/Forms.lean ====
section
/-! DEFINITION. The family OUT of the opcode table: the forms ENC1 to ENC9 (R100 to R108), each the
arm of the class dispatch of ACCEPT that its class selects (R112, R122, R130 (a)). The data bits of
the form, zero-extended, are the operand (R64); for an operand of another class the spec leaves
BLD's output unspecified (R110). -/

namespace Sys2Proof.Machine

/-- ENC1 (R100): the 1 byte of the form into BUF, and their delivery begins. -/
def execEnc1 (v : BitVec 7) (s : State) : Host.Outcome State Fault Refusal :=
  .next (acceptIfIdle (v.setWidth 64) 1 (builtBytes (v.setWidth 64) 1 (form1 (v.setWidth 64)) s) s)

/-- ENC2 (R101): the 2 bytes of the form into BUF, and their delivery begins. -/
def execEnc2 (v : BitVec 14) (s : State) : Host.Outcome State Fault Refusal :=
  .next (acceptIfIdle (v.setWidth 64) 2 (builtBytes (v.setWidth 64) 2 (form2 (v.setWidth 64)) s) s)

/-- ENC3 (R102): the 3 bytes of the form into BUF, and their delivery begins. -/
def execEnc3 (v : BitVec 21) (s : State) : Host.Outcome State Fault Refusal :=
  .next (acceptIfIdle (v.setWidth 64) 3 (builtBytes (v.setWidth 64) 3 (form3 (v.setWidth 64)) s) s)

/-- ENC4 (R103): the 4 bytes of the form into BUF, and their delivery begins. -/
def execEnc4 (v : BitVec 28) (s : State) : Host.Outcome State Fault Refusal :=
  .next (acceptIfIdle (v.setWidth 64) 4 (builtBytes (v.setWidth 64) 4 (form4 (v.setWidth 64)) s) s)

/-- ENC5 (R104): the 5 bytes of the form into BUF, and their delivery begins. -/
def execEnc5 (v : BitVec 35) (s : State) : Host.Outcome State Fault Refusal :=
  .next (acceptIfIdle (v.setWidth 64) 5 (builtBytes (v.setWidth 64) 5 (form5 (v.setWidth 64)) s) s)

/-- ENC6 (R105): the 6 bytes of the form into BUF, and their delivery begins. -/
def execEnc6 (v : BitVec 42) (s : State) : Host.Outcome State Fault Refusal :=
  .next (acceptIfIdle (v.setWidth 64) 6 (builtBytes (v.setWidth 64) 6 (form6 (v.setWidth 64)) s) s)

/-- ENC7 (R106): the 7 bytes of the form into BUF, and their delivery begins. -/
def execEnc7 (v : BitVec 49) (s : State) : Host.Outcome State Fault Refusal :=
  .next (acceptIfIdle (v.setWidth 64) 7 (builtBytes (v.setWidth 64) 7 (form7 (v.setWidth 64)) s) s)

/-- ENC8 (R107): the 8 bytes of the form into BUF, and their delivery begins. -/
def execEnc8 (v : BitVec 56) (s : State) : Host.Outcome State Fault Refusal :=
  .next (acceptIfIdle (v.setWidth 64) 8 (builtBytes (v.setWidth 64) 8 (form8 (v.setWidth 64)) s) s)

/-- ENC9 (R108): the 9 bytes of the form into BUF, and their delivery begins. -/
def execEnc9 (v : BitVec 64) (s : State) : Host.Outcome State Fault Refusal :=
  .next (acceptIfIdle v 9 (builtBytes v 9 (form9 v) s) s)

end Sys2Proof.Machine
end

