-- ==== Sys2Proof/Machine/Dispatch.lean ====
section
/-! DEFINITION. One arm per instruction, each one call of its meaning. -/

namespace Sys2Proof.Machine

def exec (i : Instr) (s : State) : Host.Outcome State Fault Refusal :=
  match i with
  | .encode x => Sys2Proof.Machine.execEncode x s
  | .enc1 v => Sys2Proof.Machine.execEnc1 v s
  | .enc2 v => Sys2Proof.Machine.execEnc2 v s
  | .enc3 v => Sys2Proof.Machine.execEnc3 v s
  | .enc4 v => Sys2Proof.Machine.execEnc4 v s
  | .enc5 v => Sys2Proof.Machine.execEnc5 v s
  | .enc6 v => Sys2Proof.Machine.execEnc6 v s
  | .enc7 v => Sys2Proof.Machine.execEnc7 v s
  | .enc8 v => Sys2Proof.Machine.execEnc8 v s
  | .enc9 v => Sys2Proof.Machine.execEnc9 v s

end Sys2Proof.Machine
end

