-- ==== Sys2Proof/WellFormed.lean ====
section
/-! DEFINITION. When an `Instr` stands for something ENC does: every request is legal (R69), and a
form carries an operand of its own class (R61, R68: only the minimal form is ever produced). -/

namespace Sys2Proof

/-- The operand whose data bits the instruction carries, zero-extended to 64 bits (R64: the bits of
x above bit 7n-1 are zero in class n). -/
def Instr.operand : Instr → Operand
  | .encode x => x
  | .enc1 v => v.setWidth 64
  | .enc2 v => v.setWidth 64
  | .enc3 v => v.setWidth 64
  | .enc4 v => v.setWidth 64
  | .enc5 v => v.setWidth 64
  | .enc6 v => v.setWidth 64
  | .enc7 v => v.setWidth 64
  | .enc8 v => v.setWidth 64
  | .enc9 v => v

/-- The length class the instruction delivers: of a request the class of its operand (R82), of a
form its own n (R61). -/
def Instr.length : Instr → Nat
  | .encode x => Machine.lengthClass x
  | .enc1 _ => 1
  | .enc2 _ => 2
  | .enc3 _ => 3
  | .enc4 _ => 4
  | .enc5 _ => 5
  | .enc6 _ => 6
  | .enc7 _ => 7
  | .enc8 _ => 8
  | .enc9 _ => 9

/-- The instruction is one ENC can carry out: its length is the class of its operand. -/
def Instr.wellFormed (i : Instr) : Bool := Machine.lengthClass i.operand == i.length

end Sys2Proof
end

