-- ==== Sys2Proof/Decode.lean ====
section
/-! DEFINITION. The words of spec/opcode_table.json: the reading of a request (R60) and of an
output form (R62, R66), each total and rejecting by name, and the encoder beside it, written from
the whole-number layout of R62 and R65 and not from BLD's formulas. ENC itself holds no such reader
(R4, R66, R154) and its step calls none: this one serves the host's interface (log 5). -/

namespace Sys2Proof

/-- The two kinds of encoded item (30_encoding.md): what REQ hands to ENC, one 64-bit word, and
what an output form is, a byte sequence with the marker first. -/
inductive Item where
  | request (x : Operand)
  | form (bytes : List Byte)
deriving DecidableEq, Repr

/-- Why a byte sequence is no output form. -/
inductive DecodeError where
  /-- No bytes at all: a form has at least its marker (R61). Safe. -/
  | empty
  /-- The first byte matches no row of R66 (R67 says none is left over). Safe. -/
  | noForm
  /-- The sequence is not as long as its first byte says (R66). Safe. -/
  | wrongLength (expected found : Nat)
deriving DecidableEq, Repr

/-- One row of the table of R66: the form is the one with first byte & mask = value. -/
structure FormRow where
  length : Nat
  mask : Byte
  value : Byte
deriving DecidableEq, Repr

/-- The match and mask table of R66, in the order of opcode_table.json. -/
def formRows : List FormRow :=
  [⟨1, 0x80#8, 0x00#8⟩, ⟨2, 0xc0#8, 0x80#8⟩, ⟨3, 0xe0#8, 0xc0#8⟩, ⟨4, 0xf0#8, 0xe0#8⟩,
   ⟨5, 0xf8#8, 0xf0#8⟩, ⟨6, 0xfc#8, 0xf8#8⟩, ⟨7, 0xfe#8, 0xfc#8⟩, ⟨8, 0xff#8, 0xfe#8⟩,
   ⟨9, 0xff#8, 0xff#8⟩]

/-- The row a first byte belongs to (R66). -/
def FormRow.accepts (m : Byte) (r : FormRow) : Bool := m &&& r.mask == r.value

/-- The length the first byte fixes, by the table of R66. -/
def lengthOfFirstByte (m : Byte) : Option Nat := (formRows.find? (FormRow.accepts m)).map (·.length)

/-- The consecutive one-bits of a byte from bit 7 downward, c of R66. -/
def leadingOnes (m : Byte) : Nat := ((List.range 8).find? (fun k => !m.getLsbD (7 - k))).getD 8

/-- The big-endian reading W of a byte sequence (R62). -/
def valueBE (bytes : List Byte) : Nat := bytes.foldl (fun w b => w * 256 + b.toNat) 0

/-- The bytes of W, `len` of them, the most significant first (R62). -/
def bytesBE (len w : Nat) : List Byte :=
  match len with
  | 0 => []
  | k + 1 => BitVec.ofNat 8 (w >>> (8 * k)) :: bytesBE k w

/-- The bytes of a table word, the first byte in bits 7..0 (the host's numbering). -/
def bytesLE (len w : Nat) : List Byte :=
  match len with
  | 0 => []
  | k + 1 => BitVec.ofNat 8 w :: bytesLE k (w / 256)

/-- The form of length n with the data bits of W: W[7n-1:0], or W[63:0] for n = 9 (R62). -/
def formOfWord (n w : Nat) : Option Instr :=
  match n with
  | 1 => some (.enc1 (BitVec.ofNat 7 w))
  | 2 => some (.enc2 (BitVec.ofNat 14 w))
  | 3 => some (.enc3 (BitVec.ofNat 21 w))
  | 4 => some (.enc4 (BitVec.ofNat 28 w))
  | 5 => some (.enc5 (BitVec.ofNat 35 w))
  | 6 => some (.enc6 (BitVec.ofNat 42 w))
  | 7 => some (.enc7 (BitVec.ofNat 49 w))
  | 8 => some (.enc8 (BitVec.ofNat 56 w))
  | 9 => some (.enc9 (BitVec.ofNat 64 w))
  | _ => none

/-- The form a byte sequence spells (R62, R66). A sequence of the right pattern is read whatever
its data bits are, the non-minimal ones of R68 too. -/
def decodeForm (bytes : List Byte) : Except DecodeError Instr :=
  match bytes with
  | [] => .error .empty
  | m :: _ =>
    match lengthOfFirstByte m with
    | none => .error .noForm
    | some n =>
      if bytes.length = n then
        match formOfWord n (valueBE bytes) with
        | none => .error .noForm
        | some i => .ok i
      else .error (.wrongLength n bytes.length)

/-- The instruction an item stands for: every 64-bit request is an ENCODE (R60, R69). -/
def decode : Item → Except DecodeError Instr
  | .request x => .ok (.encode x)
  | .form bytes => decodeForm bytes

/-- W of R65 for the form of length n with data bits d: n - 1 ones, a zero, d (n in 1..8); eight
ones and d for n = 9. -/
def formWord (n d : Nat) : Nat :=
  if n = 9 then 0xff * 2 ^ 64 + d
  else (2 ^ (n - 1) - 1) * 2 ^ (7 * n + 1) + d

/-- The item of an instruction: the request word (R60) or the form's bytes (R62). -/
def encode : Instr → Item
  | .encode x => .request x
  | .enc1 v => .form (bytesBE 1 (formWord 1 v.toNat))
  | .enc2 v => .form (bytesBE 2 (formWord 2 v.toNat))
  | .enc3 v => .form (bytesBE 3 (formWord 3 v.toNat))
  | .enc4 v => .form (bytesBE 4 (formWord 4 v.toNat))
  | .enc5 v => .form (bytesBE 5 (formWord 5 v.toNat))
  | .enc6 v => .form (bytesBE 6 (formWord 6 v.toNat))
  | .enc7 v => .form (bytesBE 7 (formWord 7 v.toNat))
  | .enc8 v => .form (bytesBE 8 (formWord 8 v.toNat))
  | .enc9 v => .form (bytesBE 9 (formWord 9 v.toNat))

/-- The item a table word of `nbits` bits spells. A form's byte lengths are all different and the
request is 64 bits wide, so only an ENC8 word and a request share a width: there the row with the
narrower match (first byte 0xfe) is taken (log 5). A word that spells nothing is kept as the bytes
it has. -/
def itemOfTableWord (nbits w : Nat) : Item :=
  match decodeForm (bytesLE (nbits / 8) w) with
  | .ok _ => .form (bytesLE (nbits / 8) w)
  | .error _ =>
    if nbits = 64 then .request (BitVec.ofNat 64 w) else .form (bytesLE (nbits / 8) w)

/-- The instruction this decoder reads from a word of the opcode table, bit 0 the least significant
bit of the first byte (of the request word for ENCODE). -/
def decodeTableWord (nbits w : Nat) : Option Instr :=
  match decode (itemOfTableWord nbits w) with
  | .ok i => some i
  | .error _ => none

end Sys2Proof
end

