-- ==== Sys2Proof/Machine/Ports.lean ====
section
/-! DEFINITION. The ports (R29), the transfers an edge causes (R30), the signal discipline (R31),
and where the next instruction comes from: the request interface, or the model's slot. No bytes are
read here (R154). -/

namespace Sys2Proof.Machine

/-- An edge at which every input is 0 and ENC holds nothing back. -/
def Edge.quiet : Edge where
  rst := false
  reqValid := false
  reqX := 0#64
  byteReady := false
  byteFail := false
  byteFault := 0#Config.faultWidth
  rspReady := false
  hold := false

/-- REQ offers x (R71: ENCODE x). -/
def Edge.request (x : Operand) : Edge := { Edge.quiet with reqValid := true, reqX := x }

/-- SNK accepts the byte on offer (R71: A). -/
def Edge.accept : Edge := { Edge.quiet with byteReady := true }

/-- SNK fails with e (R71: F(e)). -/
def Edge.fail (e : SinkFault) : Edge := { Edge.quiet with byteFail := true, byteFault := e }

/-- REQ takes the response. -/
def Edge.take : Edge := { Edge.quiet with rspReady := true }

/-- A reset edge (R71: RESET). -/
def Edge.reset : Edge := { Edge.quiet with rst := true }

/-- The levels at the coming edge. -/
def edge (s : State) : Edge := s.inputs.headD Edge.quiet

/-- That edge is past. -/
def passEdge (s : State) : State := { s with inputs := s.inputs.tail }

/-- ENC holds its ready or valid at 0 at this edge: only where the edge says so, and not once the edges
it may do so at are used up (R31 (c), R131; log 11). -/
def holds (s : State) (e : Edge) : Bool := e.hold && s.patience != 0

/-- `req_ready`: only in IDLE, never while `rst` is 1 (R29, R160); ENC may hold it back (R31 (c)).
A form in the slot goes first. -/
def reqReady (s : State) (e : Edge) : Bool :=
  s.ph == .idle && !e.rst && !holds s e && s.slot.isNone

/-- `byte_valid`: only in SEND; once raised it stays (R29, R31 (a), (c)). -/
def byteValid (s : State) (e : Edge) : Bool := s.ph == .send && (s.raised || !holds s e)

/-- `rsp_valid`: only in RESP; once raised it stays (R29, R31 (a), (c)). -/
def rspValid (s : State) (e : Edge) : Bool := s.ph == .resp && (s.raised || !holds s e)

/-- The output ports at an edge (R29). -/
structure Outputs where
  reqReady : Bool
  byteValid : Bool
  byteData : Byte
  rspValid : Bool
  rspErr : Bool
  rspCount : Nibble
  rspFault : SinkFault
  busy : Bool
deriving DecidableEq, Repr

/-- What ENC drives at an edge (R29). A data port whose valid is 0 carries a free value (R32, U8),
which is the same in instances of equal `fresh` (log 17). -/
def outputs (s : State) (e : Edge) : Outputs where
  reqReady := reqReady s e
  byteValid := byteValid s e
  byteData := if byteValid s e then offeredByte s else Config.freeByteData s.fresh
  rspValid := rspValid s e
  rspErr := if rspValid s e then (response s).err else Config.freeRspErr s.fresh
  rspCount := if rspValid s e then (response s).count else Config.freeRspCount s.fresh
  rspFault := if rspValid s e then (response s).fault else Config.freeRspFault s.fresh
  busy := busy s

/-- What an edge causes: at most one transfer, or a reset (R30, R121). -/
inductive Transfer where
  | reset
  | request (i : Instr)
  | byteAccepted
  | byteFailed (e : SinkFault)
  | response
  | nothing
deriving DecidableEq, Repr

/-- The event of an edge (R30): reset wins over every transfer (R148, R160), and `byte_fail` over
`byte_ready` (R148). Any word on `req_x` is an ENCODE of it (R60, R69). -/
def transfer (s : State) (e : Edge) : Transfer :=
  if e.rst then .reset
  else
    match s.ph with
    | .idle =>
      match s.slot with
      | some i => .request i
      | none => if e.reqValid && reqReady s e then .request (.encode e.reqX) else .nothing
    | .send =>
      if byteValid s e && e.byteFail then .byteFailed e.byteFault
      else if byteValid s e && e.byteReady then .byteAccepted
      else .nothing
    | .resp => if rspValid s e && e.rspReady then .response else .nothing

/-- An edge without a transfer changes nothing of ENC; a valid that is up at it stays up (R30,
R31 (a)), and an edge held back is one fewer to hold back (R31 (c), R131). -/
def passQuietly (e : Edge) (s : State) : State :=
  { newOffer s with
    raised := byteValid s e || rspValid s e
    patience := if holds s e then s.patience - 1 else Config.freePatience s.fresh }

/-- The form in the slot is taken from it. -/
def clearSlot (s : State) : State := { s with slot := none }

end Sys2Proof.Machine
end

