-- ==== Sys2Proof/Machine/Placing.lean ====
section
/-! DEFINITION. How an opcode-table word is offered to ENC. The reading of the word happens here, on
the host's side, before ENC's step: ENC itself decodes nothing (R66, R154). -/

namespace Sys2Proof.Machine

/-- The coming edge offers the item, with nothing else at it: a request word on `req_x`, the form
that a byte sequence spells in the slot. PH is IDLE, where alone an instruction is taken (R122).
Bytes that spell no form offer nothing (logs 5 and 6). -/
def placeItem (s : State) (item : Item) : State :=
  match item with
  | .request x => { s with ph := .idle, slot := none, inputs := Edge.request x :: s.inputs }
  | .form bytes =>
    match decodeForm bytes with
    | .ok i => { s with ph := .idle, slot := some i, inputs := Edge.quiet :: s.inputs }
    | .error _ => s

end Sys2Proof.Machine
end

