-- ==== Sys2Proof/Machine/Step.lean ====
section
/-! DEFINITION. One rising edge of `clk` (R30, R121): the step of the machine, and the placing of an
opcode-table word where the next step fetches. -/

namespace Sys2Proof.Machine

/-- One edge: the transfer it causes, if any, is one step of ENC (R30, R121). A request transfer
hands over an instruction, which is executed (R122). Nothing is decoded (R154). -/
def step (s : State) : Host.Outcome State Fault Refusal :=
  match transfer s (edge s) with
  | .reset => .next (resetStep (passEdge s))
  | .request i => exec i (clearSlot (passEdge s))
  | .byteAccepted => .next (emitAccepted (passEdge s))
  | .byteFailed e => .next (raiseSinkFail e (passEdge s))
  | .response => .next (respond (passEdge s))
  | .nothing => .next (passQuietly (edge s) (passEdge s))

/-- The state with the instruction of a table word offered at its next edge (logs 4, 5 and 6). -/
def State.withFetchWord (s : State) (nbits w : Nat) : State := placeItem s (itemOfTableWord nbits w)

end Sys2Proof.Machine
end

