-- ==== Sys2Proof/Machine/Instances.lean ====
section
/-! DEFINITION. Several ENC instances whose sinks are one sink (R54, R153, R165): an element that is
not part of ENC joins their bytes, and a foreign writer may add its own. Which instance moves next,
and when a foreign byte comes, is free (U13): each is an operation of its own.

Two choices of the model: the joining element passes each accepted byte on at once, once and in
order (R54 leaves the order to that element; DESIGN CHOICE, log 15), and the unspecified values of
two instances are equal where their `fresh` is (R153 gives no such relation; DESIGN CHOICE, log 17). -/

namespace Sys2Proof.Machine

/-- The instances, and what has entered the shared sink, oldest first, each byte with the number of
the instance it came from, none for a foreign writer. -/
structure Shared where
  encs : List State
  joined : List (Option Nat × Byte)
deriving DecidableEq, Repr

/-- Instance k takes one step; the byte its sink accepted at it, if any, enters the shared sink
(R153, R165; that it does so at this very step is log 15). Without an instance k nothing happens. -/
def Shared.stepOf (k : Nat) (h : Shared) : Host.Outcome Shared Fault Refusal :=
  match h.encs[k]? with
  | none => .next h
  | some s =>
    match step s with
    | .next t =>
      .next ⟨h.encs.set k t,
        h.joined ++ (t.sink.drop s.sink.length).map (fun b => (some k, b))⟩
    | .fault r => .fault r
    | .refused r => .refused r

/-- A writer that is no ENC puts a byte into the shared sink (R165). -/
def Shared.foreignWrite (b : Byte) (h : Shared) : Shared := { h with joined := h.joined ++ [(none, b)] }

/-- The bytes instance k put into the shared sink, oldest first. -/
def Shared.bytesOf (k : Nat) (h : Shared) : List Byte :=
  (h.joined.filter (fun p => p.1 == some k)).map (·.2)

end Sys2Proof.Machine
end

