-- ==== Sys2Proof/Safety.lean ====
section
/-! DEFINITION. What claims speak of: the invariants of R33, the account of the sink stream of
R133, the observation of a run, and agents that do their part (R131). -/

namespace Sys2Proof.Machine

/-- The bytes one ended operation put into S: the first `count` bytes of encode(x) (R133, R161). -/
def Ended.bytes : Ended → List Byte
  | .responded x r => (encodeBytes x).take r.count.toNat
  | .abandoned x count => (encodeBytes x).take count.toNat

/-- The bytes of the operation in flight the sink has accepted: BUF[0..IDX-1] (R33 (e)). -/
def State.inFlight (s : State) : List Byte :=
  match s.ph with
  | .idle => []
  | .send => s.buf.toList.take s.idx.toNat
  | .resp => s.buf.toList.take s.idx.toNat

/-- BUF[0..N-1] = encode(x) and N = class(x) for the operand x of the last ACCEPT (R22, R23). -/
def State.holdsSequence (s : State) : Prop :=
  s.n.toNat = lengthClass s.operand ∧ s.buf.toList.take s.n.toNat = encodeBytes s.operand

/-- R33 (a) to (d): the state invariant, for states whose model-own slot is empty. Beside the
phases it says the ranges of R20 (N in 1..9, IDX in 0..9) and that a valid is up only in SEND and
RESP. -/
structure State.Inv (s : State) : Prop where
  length_range : 1 ≤ s.n.toNat ∧ s.n.toNat ≤ 9
  index_range : s.idx.toNat ≤ 9
  send : s.ph = .send → s.idx.toNat < s.n.toNat ∧ s.err = false ∧ s.holdsSequence
  resp_ok : s.ph = .resp → s.err = false → s.idx = s.n ∧ s.holdsSequence
  resp_fail : s.ph = .resp → s.err = true → s.idx.toNat < s.n.toNat ∧ s.holdsSequence
  raised : s.raised = true → s.ph ≠ .idle
  slot : s.slot = none

/-- S as R133 and R161 account for it: S0, then what every ended operation left there, then the
accepted bytes of the one in flight. -/
def State.Accounted (s0 : List Byte) (s : State) : Prop :=
  s.sink = s0 ++ s.history.flatMap Ended.bytes ++ s.inFlight

/-- A response tells the truth (R127, R141): with err = 0 the count is class(x), with err = 1 it is
less. -/
def Ended.truthful : Ended → Prop
  | .responded x r =>
    (r.err = false → r.count.toNat = lengthClass x) ∧ (r.err = true → r.count.toNat < lengthClass x)
  | .abandoned x count => count.toNat ≤ lengthClass x

/-- The responses of the run, each with its operand: observation (b) of R133. -/
def State.responses (s : State) : List (Operand × Response) :=
  s.history.filterMap fun h =>
    match h with
    | .responded x r => some (x, r)
    | .abandoned _ _ => none

/-- t is s after an ACCEPT of operand x with length m and sequence `bytes` (R122): N, BUF[0..m-1],
IDX, ERR and PH as that rule writes them; FV, the sink stream, the history, the schedule and the
slot as in s. Of BUF[m..8] nothing is said, the spec leaves it unspecified; nor of the free number of
edges the first byte may be held back. -/
structure AcceptedAs (x : Operand) (m : Nat) (bytes : List Byte) (s t : State) : Prop where
  n : t.n.toNat = m
  buf : t.buf.toList.take m = bytes
  idx : t.idx = 0#4
  err : t.err = false
  ph : t.ph = .send
  operand : t.operand = x
  raised : t.raised = false
  fv : t.fv = s.fv
  sink : t.sink = s.sink
  history : t.history = s.history
  inputs : t.inputs = s.inputs
  slot : t.slot = s.slot

/-- t is s with PH = IDLE, the sink stream and the slot as in s, and the schedule at `rest`. Of BUF,
N, IDX, ERR and FV nothing is said: in IDLE they are unspecified (R33 (d)). -/
structure IdleAfter (rest : List Edge) (s t : State) : Prop where
  ph : t.ph = .idle
  raised : t.raised = false
  sink : t.sink = s.sink
  operand : t.operand = s.operand
  slot : t.slot = s.slot
  inputs : t.inputs = rest

/-- What the edges es 0, ..., es (k - 1) make of s. -/
def State.after (s : State) (es : Nat → Edge) (k : Nat) : Host.Outcome State Fault Refusal :=
  Sys2Proof.core.run k { s with inputs := (List.range k).map es }

/-- In the run of s over the edges es, SNK eventually answers every offered byte and REQ eventually
takes every offered response, the two premises of R131, and no reset comes. -/
structure State.AgentsAnswer (s : State) (es : Nat → Edge) : Prop where
  noReset : ∀ k, (es k).rst = false
  byteAnswered : ∀ k t, s.after es k = .next t → byteValid t (es k) = true →
    ∃ m, k ≤ m ∧ ((es m).byteReady = true ∨ (es m).byteFail = true)
  responseTaken : ∀ k t, s.after es k = .next t → rspValid t (es k) = true →
    ∃ m, k ≤ m ∧ (es m).rspReady = true

end Sys2Proof.Machine
end

