-- ==== Sys2Proof/Certificates/Slice0/Obligations.lean ====
section
/-! DEFINITION. The statements for the provers, from the numbered rules of spec/. -/

open Sys2Proof Sys2Proof.Machine

/-! ### CLS -/

/-- R82: class(x) is the smallest n in 1..8 with x < 2^(7n), or 9 if there is none, it is the
length of the encoded sequence, and the test by the threshold T(n) is the same test. -/
def Obligations.ClassIsSmallestFittingLength : Prop :=
  ∀ x : Operand,
    (x.toNat < 2 ^ 56 →
      1 ≤ lengthClass x ∧ lengthClass x ≤ 8 ∧ x.toNat < 2 ^ (7 * lengthClass x) ∧
        ∀ m, 1 ≤ m → m < lengthClass x → 2 ^ (7 * m) ≤ x.toNat) ∧
    (2 ^ 56 ≤ x.toNat → lengthClass x = 9) ∧
    (encodeBytes x).length = lengthClass x ∧
    (∀ n, 1 ≤ n → n ≤ 8 → (x.toNat < 2 ^ (7 * n) ↔ x.toNat ≤ threshold n))

/-- R84, its derived sentence: the sequential search computes class(x). -/
def Obligations.CascadeComputesClass : Prop := ∀ x : Operand, cascadeClass x = lengthClass x

/-- R85: the highest-set-bit method agrees with class(x) on all 2^64 operands. -/
def Obligations.HighestBitMethodAgrees : Prop := ∀ x : Operand, highestBitClass x = lengthClass x

/-- R86: class(x) = n exactly for lo(n) <= x <= hi(n). -/
def Obligations.ClassRanges : Prop :=
  ∀ (x : Operand) (n : Nat), 1 ≤ n → n ≤ 9 →
    (lengthClass x = n ↔
      (if n = 1 then 0 else 2 ^ (7 * (n - 1))) ≤ x.toNat ∧
        x.toNat ≤ (if n = 9 then 2 ^ 64 - 1 else 2 ^ (7 * n) - 1))

/-- R88: at every class boundary v = 2^(7n) - 1, encoding v uses class n and encoding v + 1 uses
class n + 1. -/
def Obligations.BoundaryValuesChangeClass : Prop :=
  ∀ n, 1 ≤ n → n ≤ 8 →
    lengthClass (BitVec.ofNat 64 (2 ^ (7 * n) - 1)) = n ∧
    (encodeBytes (BitVec.ofNat 64 (2 ^ (7 * n) - 1))).length = n ∧
    lengthClass (BitVec.ofNat 64 (2 ^ (7 * n))) = n + 1 ∧
    (encodeBytes (BitVec.ofNat 64 (2 ^ (7 * n)))).length = n + 1

/-! ### BLD -/

/-- R95, R96: prefix_mask(n) has bits 7 down to 9-n set and no other, data_mask(n) the low 8-n
bits, and together they leave out only bit 8-n. -/
def Obligations.MasksHaveTheirBits : Prop :=
  ∀ n, 1 ≤ n → n ≤ 8 →
    (∀ i, i < 8 → (prefixMask n).getLsbD i = decide (9 - n ≤ i)) ∧
    (∀ i, i < 8 → (dataMask n).getLsbD i = decide (i < 8 - n)) ∧
    (dataMask n).toNat = 2 ^ (8 - n) - 1 ∧
    prefixMask n &&& dataMask n = 0#8 ∧
    (prefixMask n ||| dataMask n).toNat = 0xff - 2 ^ (8 - n)

/-- R98: for n = class(x) <= 8 the mask of the marker removes no one-bit. -/
def Obligations.MarkerMaskRemovesNothing : Prop :=
  ∀ x : Operand, lengthClass x ≤ 8 →
    (x >>> (8 * (lengthClass x - 1))) &&& (dataMask (lengthClass x)).setWidth 64 =
      x >>> (8 * (lengthClass x - 1))

/-- R111: encode(x) as the rule's pseudocode gives it, of length class(x), and equal to ENCn(x). -/
def Obligations.EncodeIsMarkerThenPayload : Prop :=
  ∀ x : Operand,
    encodeBytes x =
      (if lengthClass x = 9 then
        0xff#8 :: [7, 6, 5, 4, 3, 2, 1, 0].map (fun k => BitVec.ofNat 8 (x.toNat >>> (8 * k)))
      else
        (BitVec.ofNat 8 (0xff <<< (9 - lengthClass x)) |||
          BitVec.ofNat 8 ((x.toNat >>> (8 * (lengthClass x - 1))) &&&
            ((1 <<< (8 - lengthClass x)) - 1))) ::
          (List.range (lengthClass x - 1)).reverse.map
            (fun k => BitVec.ofNat 8 (x.toNat >>> (8 * k)))) ∧
    (encodeBytes x).length = lengthClass x ∧
    formBytes (lengthClass x) x = some (encodeBytes x)

/-- The forms ENC1 to ENC9 as R100 to R108 write them out, each for the operands of its class. -/
def Obligations.FormsHaveTheirPseudocode : Prop :=
  ∀ (x : Operand) (b : Nat → Byte), (∀ k, b k = BitVec.ofNat 8 (x.toNat >>> (8 * k))) →
    (x.toNat ≤ 0x7f → encodeBytes x = [BitVec.ofNat 8 x.toNat]) ∧
    (0x80 ≤ x.toNat → x.toNat ≤ 0x3fff →
      encodeBytes x = [0x80#8 ||| (b 1 &&& 0x3f#8), b 0]) ∧
    (0x4000 ≤ x.toNat → x.toNat ≤ 0x1fffff →
      encodeBytes x = [0xc0#8 ||| (b 2 &&& 0x1f#8), b 1, b 0]) ∧
    (0x200000 ≤ x.toNat → x.toNat ≤ 0xfffffff →
      encodeBytes x = [0xe0#8 ||| (b 3 &&& 0x0f#8), b 2, b 1, b 0]) ∧
    (0x10000000 ≤ x.toNat → x.toNat ≤ 0x7ffffffff →
      encodeBytes x = [0xf0#8 ||| (b 4 &&& 0x07#8), b 3, b 2, b 1, b 0]) ∧
    (0x800000000 ≤ x.toNat → x.toNat ≤ 0x3ffffffffff →
      encodeBytes x = [0xf8#8 ||| (b 5 &&& 0x03#8), b 4, b 3, b 2, b 1, b 0]) ∧
    (0x40000000000 ≤ x.toNat → x.toNat ≤ 0x1ffffffffffff →
      encodeBytes x = [0xfc#8 ||| (b 6 &&& 0x01#8), b 5, b 4, b 3, b 2, b 1, b 0]) ∧
    (0x2000000000000 ≤ x.toNat → x.toNat ≤ 0xffffffffffffff →
      encodeBytes x = [0xfe#8, b 6, b 5, b 4, b 3, b 2, b 1, b 0]) ∧
    (0x100000000000000 ≤ x.toNat →
      encodeBytes x = [0xff#8, b 7, b 6, b 5, b 4, b 3, b 2, b 1, b 0])

/-- R64: where every bit of x goes. Payload byte j is x[8(n-j)-1 : 8(n-j-1)], and for n <= 8 the
low 8-n bits of the marker are x[7n-1 : 8(n-1)]. -/
def Obligations.EveryOperandBitHasItsPlace : Prop :=
  ∀ x : Operand,
    (∀ j, 1 ≤ j → j < lengthClass x →
      (encodeBytes x)[j]? = some (x.extractLsb' (8 * (lengthClass x - j - 1)) 8)) ∧
    (lengthClass x ≤ 8 →
      ∃ m : Byte, (encodeBytes x)[0]? = some m ∧
        ∀ i, i < 8 - lengthClass x →
          m.getLsbD i = x.getLsbD (8 * (lengthClass x - 1) + i)) ∧
    (lengthClass x = 9 → (encodeBytes x)[0]? = some 0xff#8)

/-- R65: the sequence read as one big-endian number. -/
def Obligations.SequenceIsOneNumber : Prop :=
  ∀ x : Operand,
    valueBE (encodeBytes x) =
      if lengthClass x = 9 then (0xff <<< 64) ||| x.toNat
      else ((prefixMask (lengthClass x)).toNat <<< (8 * (lengthClass x - 1))) ||| x.toNat

/-- R113, R66: the first byte has the prefix of its class, and the number of its leading ones, like
the match and mask table, gives the length. -/
def Obligations.FirstByteFixesLength : Prop :=
  ∀ x : Operand, ∃ m rest, encodeBytes x = m :: rest ∧
    leadingOnes m + 1 = lengthClass x ∧
    lengthOfFirstByte m = some (lengthClass x) ∧
    (lengthClass x ≤ 8 → m &&& (0xff#8 <<< (8 - lengthClass x)) = prefixMask (lengthClass x)) ∧
    (lengthClass x = 9 → m = 0xff#8)

/-- R70 (b), (c): no sequence ENC produces is the beginning of another operand's, so the encoding is
injective and prefix-free. -/
def Obligations.EncodingIsPrefixFree : Prop :=
  ∀ x y : Operand, encodeBytes x <+: encodeBytes y → x = y

/-- R67: every byte value is the first byte of some produced sequence. -/
def Obligations.EveryFirstByteIsProduced : Prop :=
  ∀ m : Byte, ∃ (x : Operand) (rest : List Byte), encodeBytes x = m :: rest

/-- R68: a sequence of the pattern of ENCn whose data bits are below the least operand of class n is
never produced. -/
def Obligations.NonMinimalIsNeverProduced : Prop :=
  ∀ (n v : Nat) (x : Operand), 2 ≤ n → n ≤ 9 → v < 2 ^ (7 * (n - 1)) →
    encodeBytes x ≠ bytesBE n (formWord n v)

/-! ### The table's words -/

/-- R62, R66: reading the encoded item of any instruction gives the instruction back, every data bit
of every form and every request word. For a form whose operand is of another class (`80 7f`) the
spec leaves a reader's choice open (R68, U1): that it is read as that form is the model's, log 5. -/
def Obligations.DecodeOfEncode : Prop := ∀ i : Instr, decode (encode i) = .ok i

/-- R62, R66: a byte sequence that is read as a form is exactly that form's item. That the non-minimal
sequences of R68 are read at all is the model's choice (log 5). -/
def Obligations.EncodeOfDecode : Prop :=
  ∀ (bytes : List Byte) (i : Instr), decode (.form bytes) = .ok i → encode i = .form bytes

/-- R62: for an operand of its own class, the item of a form is the sequence ENC sends. -/
def Obligations.FormItemIsTheSequenceSent : Prop :=
  ∀ i : Instr, (∀ x, i ≠ .encode x) → i.wellFormed = true →
    encode i = .form (encodeBytes i.operand)

/-- R66, R67: each byte value matches exactly one row of the table, the row of its leading ones. -/
def Obligations.EachFirstByteHasOneRow : Prop :=
  ∀ m : Byte, (formRows.filter (FormRow.accepts m)).length = 1 ∧
    lengthOfFirstByte m = some (leadingOnes m + 1)

/-- R62: words written out from the table read as the instruction they stand for. -/
def Obligations.WrittenOutWordsDecode : Prop :=
  decode (.request 0x2010#64) = .ok (.encode 0x2010#64) ∧
  decode (.form [0x7f#8]) = .ok (.enc1 0x7f#7) ∧
  decode (.form [0xa0#8, 0x10#8]) = .ok (.enc2 0x2010#14) ∧
  decode (.form [0xc1#8, 0x23#8, 0x45#8]) = .ok (.enc3 0x12345#21) ∧
  decode (.form [0xfe#8, 0xab#8, 0xcd#8, 0xef#8, 0x01#8, 0x23#8, 0x45#8, 0x67#8]) =
    .ok (.enc8 0xabcdef01234567#56) ∧
  decode (.form [0xff#8, 0x01#8, 0x23#8, 0x45#8, 0x67#8, 0x89#8, 0xab#8, 0xcd#8, 0xef#8]) =
    .ok (.enc9 0x0123456789abcdef#64)

/-- R60, R69: every 64-bit word is a request, and a legal one. -/
def Obligations.EveryRequestIsLegal : Prop :=
  ∀ x : Operand, decode (.request x) = .ok (.encode x) ∧ (Instr.encode x).wellFormed = true

/-! ### The instructions -/

/-- R122: in IDLE, ENCODE x is accepted for every x, with N, BUF, IDX, ERR and PH as the rule writes
them and nothing else changed; in SEND and RESP it is not enabled and waits, with `req_ready` = 0. -/
def Obligations.EncodeIsAccepted : Prop :=
  ∀ (x : Operand) (s : State),
    (s.ph = .idle →
      ∃ t, exec (.encode x) s = .next t ∧ AcceptedAs x (lengthClass x) (encodeBytes x) s t) ∧
    (s.ph ≠ .idle → exec (.encode x) s = .next s ∧ ∀ e, (outputs s e).reqReady = false)

/-- The forms ENC1 to ENC9 in IDLE, for an operand of the form's class: accepted with the bytes of
the form's own pattern (R62), every other element as R122 says. That a form is carried out by itself
is the model's (log 6). -/
def Obligations.FormsAreAccepted : Prop :=
  ∀ s : State, s.ph = .idle →
    (∀ v : BitVec 7, (Instr.enc1 v).wellFormed = true →
      ∃ t, exec (.enc1 v) s = .next t ∧
        AcceptedAs (v.setWidth 64) 1 (bytesBE 1 v.toNat) s t) ∧
    (∀ v : BitVec 14, (Instr.enc2 v).wellFormed = true →
      ∃ t, exec (.enc2 v) s = .next t ∧
        AcceptedAs (v.setWidth 64) 2 (bytesBE 2 (0x80 * 2 ^ 8 + v.toNat)) s t) ∧
    (∀ v : BitVec 21, (Instr.enc3 v).wellFormed = true →
      ∃ t, exec (.enc3 v) s = .next t ∧
        AcceptedAs (v.setWidth 64) 3 (bytesBE 3 (0xc0 * 2 ^ 16 + v.toNat)) s t) ∧
    (∀ v : BitVec 28, (Instr.enc4 v).wellFormed = true →
      ∃ t, exec (.enc4 v) s = .next t ∧
        AcceptedAs (v.setWidth 64) 4 (bytesBE 4 (0xe0 * 2 ^ 24 + v.toNat)) s t) ∧
    (∀ v : BitVec 35, (Instr.enc5 v).wellFormed = true →
      ∃ t, exec (.enc5 v) s = .next t ∧
        AcceptedAs (v.setWidth 64) 5 (bytesBE 5 (0xf0 * 2 ^ 32 + v.toNat)) s t) ∧
    (∀ v : BitVec 42, (Instr.enc6 v).wellFormed = true →
      ∃ t, exec (.enc6 v) s = .next t ∧
        AcceptedAs (v.setWidth 64) 6 (bytesBE 6 (0xf8 * 2 ^ 40 + v.toNat)) s t) ∧
    (∀ v : BitVec 49, (Instr.enc7 v).wellFormed = true →
      ∃ t, exec (.enc7 v) s = .next t ∧
        AcceptedAs (v.setWidth 64) 7 (bytesBE 7 (0xfc * 2 ^ 48 + v.toNat)) s t) ∧
    (∀ v : BitVec 56, (Instr.enc8 v).wellFormed = true →
      ∃ t, exec (.enc8 v) s = .next t ∧
        AcceptedAs (v.setWidth 64) 8 (bytesBE 8 (0xfe * 2 ^ 56 + v.toNat)) s t) ∧
    (∀ v : BitVec 64, (Instr.enc9 v).wellFormed = true →
      ∃ t, exec (.enc9 v) s = .next t ∧
        AcceptedAs v 9 (bytesBE 9 (0xff * 2 ^ 64 + v.toNat)) s t)

/-- ENC2 to ENC9 in IDLE with an operand of another class: they run too, over a sequence of their
length of which nothing is said (R110, U4). That they run is the model's choice (log 7). -/
def Obligations.FormOfAnotherClassRuns : Prop :=
  ∀ (i : Instr) (s : State), s.ph = .idle → i.wellFormed = false →
    ∃ t bytes, exec i s = .next t ∧ bytes.length = i.length ∧
      AcceptedAs i.operand i.length bytes s t

/-- A form outside IDLE waits as a request does. The model's (log 6). -/
def Obligations.FormsWaitOutsideIdle : Prop :=
  ∀ (i : Instr) (s : State), s.ph ≠ .idle → exec i s = .next s

/-- R130 (a), R112: ENCODE x does what the form of its class does, and every operand has its form. The
forms as instructions are the model's (log 6), and so is that the two leave equal unspecified bytes
in BUF (log 17). -/
def Obligations.EncodeDispatchesToItsForm : Prop :=
  (∀ (i : Instr) (s : State), i.wellFormed = true → exec (.encode i.operand) s = exec i s) ∧
  (∀ x : Operand, ∃ i : Instr, (∀ y, i ≠ .encode y) ∧ i.operand = x ∧ i.wellFormed = true)

/-! ### The step -/

/-- An edge at which a request is transferred runs the instruction that the word at `req_x` reads as
(ENCODE of it, R60); a form in the slot is run (the model's, log 6). Around exec, the step passes the
edge and empties the slot. -/
def Obligations.StepRunsTheDecodedInstruction : Prop :=
  ∀ (s : State) (e : Edge) (rest : List Edge), s.ph = .idle → s.inputs = e :: rest →
    e.rst = false →
    (s.slot = none → e.reqValid = true → holds s e = false →
      ∀ i, decode (.request e.reqX) = .ok i → step s = exec i { s with inputs := rest }) ∧
    (∀ i, s.slot = some i → step s = exec i { s with inputs := rest, slot := none })

/-- The host's placing of a table word: the very next step runs the instruction the word reads as, and
nothing but the phase, the slot and the schedule is touched for it. The model's (log 5, log 6). -/
def Obligations.PlacedWordRunsNext : Prop :=
  ∀ (s : State) (nbits w : Nat) (i : Instr), decodeTableWord nbits w = some i →
    step (s.withFetchWord nbits w) = exec i { s with ph := .idle, slot := none }

/-- R123: a byte is offered only in SEND, and it is BUF[IDX]. -/
def Obligations.OnlyTheByteAtIndexIsOffered : Prop :=
  ∀ (s : State) (e : Edge), (outputs s e).byteValid = true →
    s.ph = .send ∧ ∀ b, s.buf[s.idx.toNat]? = some b → (outputs s e).byteData = b

/-- R124: an accepted byte that is not the last enters S, IDX advances, nothing else of ENC changes,
and the next byte on offer is BUF[IDX] with the new IDX. Of the free number of edges it may be held
back, and of the count of free values, nothing is said. -/
def Obligations.AcceptedByteEntersTheSink : Prop :=
  ∀ (s : State) (e : Edge) (rest : List Edge) (b : Byte), s.inputs = e :: rest → e.rst = false →
    s.ph = .send → (s.raised = true ∨ holds s e = false) → e.byteReady = true →
    e.byteFail = false → s.buf[s.idx.toNat]? = some b → s.idx.toNat + 1 < s.n.toNat →
    ∃ t, step s = .next t ∧
      t = { s with
        sink := s.sink ++ [b], idx := s.idx + 1#4, raised := false, inputs := rest,
        patience := t.patience, fresh := t.fresh } ∧
      ∀ b' e', s.buf[s.idx.toNat + 1]? = some b' → holds t e' = false →
        (outputs t e').byteValid = true ∧ (outputs t e').byteData = b'

/-- R125: the last accepted byte enters S, IDX becomes N and PH becomes RESP; ERR stays 0, and with
the state invariant and the account of the run, S then ends in exactly encode(x). -/
def Obligations.LastAcceptedByteEndsTheOperation : Prop :=
  ∀ (s : State) (e : Edge) (rest : List Edge) (b : Byte), s.inputs = e :: rest → e.rst = false →
    s.ph = .send → (s.raised = true ∨ holds s e = false) → e.byteReady = true →
    e.byteFail = false → s.buf[s.idx.toNat]? = some b → s.idx.toNat + 1 = s.n.toNat →
    (∃ t, step s = .next t ∧
      t = { s with
        sink := s.sink ++ [b], idx := s.n, ph := .resp, raised := false, inputs := rest,
        patience := t.patience, fresh := t.fresh }) ∧
    (∀ s0, s.Inv → s.Accounted s0 → s.err = false ∧
      s.sink ++ [b] = s0 ++ s.history.flatMap Ended.bytes ++ encodeBytes s.operand)

/-- R126, R143, R148: a failed byte, whatever `byte_ready` is, sets ERR, copies the failure value
into FV and ends the operation; IDX, N, BUF and S stay, and no byte is on offer afterwards. -/
def Obligations.FailedByteEndsTheOperation : Prop :=
  ∀ (s : State) (e : Edge) (rest : List Edge), s.inputs = e :: rest → e.rst = false →
    s.ph = .send → (s.raised = true ∨ holds s e = false) → e.byteFail = true →
    ∃ t, step s = .next t ∧
      t = { s with
        err := true, fv := e.byteFault, ph := .resp, raised := false, inputs := rest,
        patience := t.patience, fresh := t.fresh } ∧
      ∀ e', byteValid t e' = false

/-- R127: REQ takes the response, which carries ERR, IDX and FV; PH becomes IDLE, S stays, and the
next operand can be accepted. -/
def Obligations.ResponseCarriesTheOutcome : Prop :=
  ∀ (s : State) (e : Edge) (rest : List Edge), s.inputs = e :: rest → e.rst = false →
    s.ph = .resp → (s.raised = true ∨ holds s e = false) → e.rspReady = true →
    (outputs s e).rspErr = s.err ∧ (outputs s e).rspCount = s.idx ∧
    (outputs s e).rspFault = s.fv ∧
    ∃ t, step s = .next t ∧ IdleAfter rest s t ∧
      t.history = s.history ++ [.responded s.operand ⟨s.err, s.idx, s.fv⟩] ∧
      (s.slot = none → ∀ e', e'.rst = false → holds t e' = false → reqReady t e' = true)

/-- R160, R161: a reset edge, in any phase and with any other input, leaves PH = IDLE and S as it
was and gives no response; while `rst` stays 1 nothing is ready or valid. An operation in flight is
noted as abandoned at its IDX in the model's history. -/
def Obligations.ResetAbandonsTheOperation : Prop :=
  ∀ (s : State) (e : Edge) (rest : List Edge), s.inputs = e :: rest → e.rst = true →
    ∃ t, step s = .next t ∧ IdleAfter rest s t ∧ t.responses = s.responses ∧
      (s.ph = .idle → t.history = s.history) ∧
      (s.ph ≠ .idle → t.history = s.history ++ [.abandoned s.operand s.idx]) ∧
      ∀ e', e'.rst = true → (outputs t e').reqReady = false ∧ (outputs t e').byteValid = false ∧
        (outputs t e').rspValid = false ∧ (outputs t e').busy = false

/-- R30: at an edge with no reset and no handshake completed, nothing but the pin-level memory (a
raised valid, the edges left to hold back, the count of free values) changes. -/
def Obligations.NothingChangesWithoutATransfer : Prop :=
  ∀ (s : State) (e : Edge) (rest : List Edge), s.inputs = e :: rest → e.rst = false →
    s.slot = none → (e.reqValid && (outputs s e).reqReady) = false →
    ((outputs s e).byteValid && (e.byteReady || e.byteFail)) = false →
    ((outputs s e).rspValid && e.rspReady) = false →
    ∃ t, step s = .next t ∧
      t = { s with
        inputs := rest, raised := (outputs s e).byteValid || (outputs s e).rspValid,
        patience := t.patience, fresh := t.fresh }

/-- R31 (a): a raised `byte_valid` or `rsp_valid` that is not answered is up at every later edge
until it is, with the same data. -/
def Obligations.RaisedValidStaysRaised : Prop :=
  ∀ (s t : State) (e e' : Edge) (rest : List Edge), s.inputs = e :: rest → e.rst = false →
    step s = .next t →
    ((outputs s e).byteValid = true → e.byteReady = false → e.byteFail = false →
      (outputs t e').byteValid = true ∧ (outputs t e').byteData = (outputs s e).byteData) ∧
    ((outputs s e).rspValid = true → e.rspReady = false →
      (outputs t e').rspValid = true ∧ (outputs t e').rspErr = (outputs s e).rspErr ∧
        (outputs t e').rspCount = (outputs s e).rspCount ∧
        (outputs t e').rspFault = (outputs s e).rspFault)

/-- R31 (b): at most one of `req_ready`, `byte_valid` and `rsp_valid` is 1 at any edge. -/
def Obligations.AtMostOneHandshakeIsOpen : Prop :=
  ∀ (s : State) (e : Edge),
    ((outputs s e).reqReady = true → (outputs s e).byteValid = false ∧
      (outputs s e).rspValid = false) ∧
    ((outputs s e).byteValid = true → (outputs s e).rspValid = false)

/-- R27: `busy` is 1 exactly when PH is SEND or RESP. -/
def Obligations.BusyInSendAndResp : Prop :=
  ∀ (s : State) (e : Edge), (outputs s e).busy = true ↔ (s.ph = .send ∨ s.ph = .resp)

/-- R21: the only moves of PH are the ones the rule lists, each at its own event. -/
def Obligations.PhaseMovesOnlyAsListed : Prop :=
  ∀ (s t : State) (e : Edge) (rest : List Edge), s.inputs = e :: rest → s.slot = none →
    step s = .next t →
    (e.rst = true → t.ph = .idle) ∧
    (e.rst = false → s.ph = .idle →
      (t.ph = .send ∧ e.reqValid = true) ∨ t.ph = .idle) ∧
    (e.rst = false → s.ph = .send →
      t.ph = .send ∨ (t.ph = .resp ∧ e.byteFail = true) ∨
      (t.ph = .resp ∧ e.byteFail = false ∧ e.byteReady = true ∧
        s.idx.toNat + 1 = s.n.toNat)) ∧
    (e.rst = false → s.ph = .resp → t.ph = .resp ∨ (t.ph = .idle ∧ e.rspReady = true))

/-- R42, R129: a step leaves S as it is or appends to it the one byte BUF[IDX] that the sink just
accepted; it never removes, changes or repeats a byte. -/
def Obligations.SinkIsAppendOnly : Prop :=
  ∀ s t : State, step s = .next t →
    t.sink = s.sink ∨
    ((edge s).rst = false ∧ s.ph = .send ∧ (edge s).byteReady = true ∧
      (edge s).byteFail = false ∧ t.sink = s.sink ++ [offeredByte s] ∧ t.idx = s.idx + 1#4)

/-- R42, R132, R28: no step depends on S, on how earlier operations ended or on the operand of the
last ACCEPT. Two states that differ in these alone take steps that differ in these alone. For the
unspecified values, equal here because `fresh` is, it is the model's choice (log 17). -/
def Obligations.NothingReadsTheSinkOrThePast : Prop :=
  ∀ (s t : State) (l : List Byte) (h : List Ended) (x : Operand), step s = .next t →
    ∃ t', step { s with sink := l, history := h, operand := x } = .next t' ∧
      t' = { t with sink := t'.sink, history := t'.history, operand := t'.operand } ∧
      t'.sink = l ++ t.sink.drop s.sink.length

/-- R69, R142, R154: no request traps, no answer stops ENC, and no malformed sequence can arise in it:
every state, at every edge, has a next state, and so has every number of steps. -/
def Obligations.EveryStateHasANextState : Prop :=
  ∀ (s : State) (k : Nat), ∃ t, Sys2Proof.core.run k s = .next t

/-! ### Reset and the invariants -/

/-- R32: after reset PH is IDLE, and no valid is up. -/
def Obligations.ResetStateIsIdle : Prop :=
  State.reset.ph = .idle ∧
  ∀ e, (outputs State.reset e).byteValid = false ∧ (outputs State.reset e).rspValid = false ∧
    (outputs State.reset e).busy = false

/-- R33 at reset. For N in 1..9 and IDX in 0..9 it rests on the reset values the model chose
(log 1). -/
def Obligations.InvariantAtReset : Prop := State.reset.Inv ∧ State.reset.Accounted []

/-- R33 (a) to (d): every step keeps the state invariant. That N stays in 1..9 and IDX in 0..9 in IDLE
too, where both are unspecified, is read from R20 and R23 (log 3). -/
def Obligations.StepKeepsTheInvariant : Prop :=
  ∀ s t : State, s.Inv → step s = .next t → t.Inv

/-- R33 (e), R133, R161: every step, a reset among them, keeps the account of S: what it held at the
start of the run, then the first count bytes of encode(x) for every ended operation, then
BUF[0..IDX-1] of the one in flight. -/
def Obligations.StepKeepsTheAccountOfTheSink : Prop :=
  ∀ (s0 : List Byte) (s t : State), s.Inv → s.Accounted s0 → step s = .next t → t.Accounted s0

/-- R127, R141, U15: every response tells the truth about its count, 9 at most, and an abandoned
operation has put at most class(x) bytes into S. -/
def Obligations.StepKeepsResponsesTruthful : Prop :=
  ∀ s t : State, s.Inv → (∀ h ∈ s.history, h.truthful) → step s = .next t →
    ∀ h ∈ t.history, h.truthful

/-! ### Whole operations -/

/-- R120: with a sink that accepts every byte, ENCODE x takes 1 + class(x) + 1 steps, appends exactly
encode(x) to S and ends with RSP OK class(x). -/
def Obligations.EncodeDeliversTheWholeSequence : Prop :=
  ∀ (x : Operand) (s : State) (rest : List Edge), s.ph = .idle → s.slot = none →
    s.inputs = Edge.request x ::
      (List.replicate (lengthClass x) Edge.accept ++ Edge.take :: rest) →
    ∃ t r, Sys2Proof.core.run (lengthClass x + 2) s = .next t ∧ t.ph = .idle ∧
      t.sink = s.sink ++ encodeBytes x ∧ t.history = s.history ++ [.responded x r] ∧
      r.err = false ∧ r.count.toNat = lengthClass x ∧ t.inputs = rest

/-- R120, R144, R145: with a sink that accepts i bytes of encode(x) and fails the next with e, S grows
by exactly the first i bytes and the response is RSP FAIL i e. -/
def Obligations.EncodeReportsTheSinkFailure : Prop :=
  ∀ (x : Operand) (i : Nat) (f : SinkFault) (s : State) (rest : List Edge), s.ph = .idle →
    s.slot = none → i < lengthClass x →
    s.inputs = Edge.request x ::
      (List.replicate i Edge.accept ++ Edge.fail f :: Edge.take :: rest) →
    ∃ t, Sys2Proof.core.run (i + 3) s = .next t ∧ t.ph = .idle ∧
      t.sink = s.sink ++ (encodeBytes x).take i ∧
      t.history = s.history ++ [.responded x ⟨true, BitVec.ofNat 4 i, f⟩] ∧ t.inputs = rest

/-- R161: a reset after i accepted bytes, the last included, leaves those bytes in S and gives no
response. -/
def Obligations.ResetMidwayLeavesTheBytesInTheSink : Prop :=
  ∀ (x : Operand) (i : Nat) (s : State) (rest : List Edge), s.ph = .idle → s.slot = none →
    i ≤ lengthClass x →
    s.inputs = Edge.request x :: (List.replicate i Edge.accept ++ Edge.reset :: rest) →
    ∃ t, Sys2Proof.core.run (i + 2) s = .next t ∧ t.ph = .idle ∧
      t.sink = s.sink ++ (encodeBytes x).take i ∧ t.responses = s.responses ∧ t.inputs = rest

/-- R131, U14: while the sink does not answer and no reset comes, the operation waits for ever: the
phase, the byte on offer and S stay as they are. -/
def Obligations.UnansweredByteWaitsForEver : Prop :=
  ∀ (es : List Edge) (s : State), s.ph = .send → s.inputs = es →
    (∀ e ∈ es, e.rst = false ∧ e.byteReady = false ∧ e.byteFail = false) →
    ∀ k, ∃ t, Sys2Proof.core.run k s = .next t ∧ t.ph = .send ∧ t.buf = s.buf ∧ t.n = s.n ∧
      t.idx = s.idx ∧ t.err = s.err ∧ t.sink = s.sink ∧ t.history = s.history

/-- R131, R31 (c): ENC offers of its own accord. In SEND and RESP, over edges without a reset and
without an answer, `byte_valid` with BUF[IDX], or `rsp_valid` with the response, is up at every edge
from the one numbered `patience` on, whatever holding back those edges ask for. That the number of
edges stands in the state is the model's (log 11); of its value nothing is said. -/
def Obligations.OfferComesAndStays : Prop :=
  ∀ (s : State) (es : Nat → Edge), (∀ k, (es k).rst = false) →
    (s.ph = .send → (∀ k, (es k).byteReady = false ∧ (es k).byteFail = false) →
      ∀ k, s.patience ≤ k → ∃ t, s.after es k = .next t ∧ (outputs t (es k)).byteValid = true ∧
        ∀ b, s.buf[s.idx.toNat]? = some b → (outputs t (es k)).byteData = b) ∧
    (s.ph = .resp → (∀ k, (es k).rspReady = false) →
      ∀ k, s.patience ≤ k → ∃ t, s.after es k = .next t ∧ (outputs t (es k)).rspValid = true ∧
        (outputs t (es k)).rspErr = s.err ∧ (outputs t (es k)).rspCount = s.idx ∧
        (outputs t (es k)).rspFault = s.fv)

/-- R131: in IDLE, ENC is ready of its own accord. While REQ keeps offering x and no reset comes,
ACCEPT(x) happens at the edge numbered `patience` at the latest, whatever holding back the edges ask
for. The number is the model's (log 11). -/
def Obligations.OfferedOperandIsAccepted : Prop :=
  ∀ (x : Operand) (s : State) (es : Nat → Edge), s.ph = .idle → s.slot = none →
    (∀ k, (es k).rst = false ∧ (es k).reqValid = true ∧ (es k).reqX = x) →
    ∃ k t, k ≤ s.patience ∧ s.after es (k + 1) = .next t ∧
      AcceptedAs x (lengthClass x) (encodeBytes x) { s with inputs := [] } t

/-- R131: if SNK eventually answers every offered byte and REQ eventually takes every offered response
(and no reset comes), the operation in flight ends with its response, after at most nine byte
transfers: the bytes S grew by and the failed one, if any, are nine at most. The edges may ask ENC to
hold back as often as they like. -/
def Obligations.EveryAcceptedOperationEnds : Prop :=
  ∀ (s : State) (es : Nat → Edge), s.Inv → s.ph ≠ .idle → s.AgentsAnswer es →
    ∃ k t r, s.after es k = .next t ∧ t.ph = .idle ∧
      t.history = s.history ++ [.responded s.operand r] ∧
      (∃ l, t.sink = s.sink ++ l ∧ l.length + (if r.err then 1 else 0) ≤ 9)

/-! ### Several instances -/

/-- R153: a step of one instance changes no other instance. -/
def Obligations.InstancesShareNothing : Prop :=
  ∀ (k j : Nat) (h h' : Shared), h.stepOf k = .next h' → j ≠ k → h'.encs[j]? = h.encs[j]?

/-- The model's joining element (DESIGN CHOICE, log 15: every accepted byte enters the shared sink at
its own step, once and in order; R54 leaves the order to that element, and of what the sink really
holds the spec says nothing without a premise, U12): whatever the order in which instances move and
foreign bytes come (R165), each instance's own bytes stay in its own order: they are what its stream
S grew by. -/
def Obligations.SharedSinkKeepsEachStream : Prop :=
  ∀ (s0 : Nat → List Byte) (h : Shared),
    (∀ j s, h.encs[j]? = some s → s.sink = s0 j ++ h.bytesOf j) →
    (∀ k h', h.stepOf k = .next h' →
      ∀ j s, h'.encs[j]? = some s → s.sink = s0 j ++ h'.bytesOf j) ∧
    (∀ b j s, (h.foreignWrite b).encs[j]? = some s →
      s.sink = s0 j ++ (h.foreignWrite b).bytesOf j)
end

