-- ==== Sys2Proof/Laws/Classify.lean ====
section
/-! SUPPORT. What CLS and BLD can answer, said once: class(x) as a chain of comparisons, its range,
and the shape of encode(x). -/

namespace Sys2Proof.Machine

/-- One test of the search for a class. -/
theorem find_fits_cons (x : Operand) (n d : Nat) (l : List Nat) :
    ((n :: l).find? (fits x)).getD d =
      if x.toNat < 2 ^ (7 * n) then n else (l.find? (fits x)).getD d := by
  by_cases h : x.toNat < 2 ^ (7 * n) <;> simp [fits, bits, Config.dataBitsPerByte, h]

/-- class(x) as the eight comparisons of R82 in order. -/
theorem lengthClass_eq (x : Operand) :
    lengthClass x =
      if x.toNat < 2 ^ 7 then 1 else if x.toNat < 2 ^ 14 then 2
      else if x.toNat < 2 ^ 21 then 3 else if x.toNat < 2 ^ 28 then 4
      else if x.toNat < 2 ^ 35 then 5 else if x.toNat < 2 ^ 42 then 6
      else if x.toNat < 2 ^ 49 then 7 else if x.toNat < 2 ^ 56 then 8 else 9 := by
  have h : List.range' 1 Config.packedMax = [1, 2, 3, 4, 5, 6, 7, 8] := by decide
  unfold lengthClass
  rw [h]
  simp only [find_fits_cons, List.find?_nil, Option.getD_none, Nat.reduceMul]

theorem lengthClass_pos (x : Operand) : 1 ≤ lengthClass x := by
  rw [lengthClass_eq]; repeat' split
  all_goals omega

theorem lengthClass_le (x : Operand) : lengthClass x ≤ 9 := by
  rw [lengthClass_eq]; repeat' split
  all_goals omega

/-- The nine values of class(x), each with the range of x it stands for. -/
theorem lengthClass_cases (x : Operand) :
    (lengthClass x = 1 ∧ x.toNat < 2 ^ 7) ∨
    (lengthClass x = 2 ∧ 2 ^ 7 ≤ x.toNat ∧ x.toNat < 2 ^ 14) ∨
    (lengthClass x = 3 ∧ 2 ^ 14 ≤ x.toNat ∧ x.toNat < 2 ^ 21) ∨
    (lengthClass x = 4 ∧ 2 ^ 21 ≤ x.toNat ∧ x.toNat < 2 ^ 28) ∨
    (lengthClass x = 5 ∧ 2 ^ 28 ≤ x.toNat ∧ x.toNat < 2 ^ 35) ∨
    (lengthClass x = 6 ∧ 2 ^ 35 ≤ x.toNat ∧ x.toNat < 2 ^ 42) ∨
    (lengthClass x = 7 ∧ 2 ^ 42 ≤ x.toNat ∧ x.toNat < 2 ^ 49) ∨
    (lengthClass x = 8 ∧ 2 ^ 49 ≤ x.toNat ∧ x.toNat < 2 ^ 56) ∨
    (lengthClass x = 9 ∧ 2 ^ 56 ≤ x.toNat ∧ x.toNat < 2 ^ 64) := by
  have hx := x.isLt
  rw [lengthClass_eq]; repeat' split
  all_goals omega

@[simp] theorem bytesDown_length (x : Operand) (m : Nat) : (bytesDown x m).length = m := by
  induction m with
  | zero => rfl
  | succ k ih => simp [bytesDown, ih]

/-- A byte of x as a number: the k-th digit of x in base 256. -/
theorem byteOf_toNat (x : Operand) (k : Nat) : (byteOf x k).toNat = x.toNat / 2 ^ (8 * k) % 256 := by
  have h : (0xff : Nat) = 2 ^ 8 - 1 := rfl
  simp [byteOf, BitVec.toNat_setWidth, BitVec.toNat_and, BitVec.toNat_ushiftRight,
    Nat.shiftRight_eq_div_pow]
  rw [h, Nat.and_two_pow_sub_one_eq_mod]
  omega

/-- A byte of x is the slice of eight bits that begins at bit 8·k (R64). -/
theorem byteOf_eq_slice (x : Operand) (k : Nat) : byteOf x k = x.extractLsb' (8 * k) 8 := by
  apply BitVec.eq_of_toNat_eq
  rw [byteOf_toNat]
  simp [BitVec.extractLsb'_toNat, Nat.shiftRight_eq_div_pow]

end Sys2Proof.Machine
end

