-- ==== Sys2Proof/Laws/State.lean ====
section
/-! SUPPORT. One lemma per field per update of State, each true by rfl, so that no later proof
unfolds a record update. -/

namespace Sys2Proof.Machine

section newOffer
@[simp] theorem newOffer_ph (s : State) :
    (newOffer s).ph = s.ph := rfl
@[simp] theorem newOffer_buf (s : State) :
    (newOffer s).buf = s.buf := rfl
@[simp] theorem newOffer_n (s : State) :
    (newOffer s).n = s.n := rfl
@[simp] theorem newOffer_idx (s : State) :
    (newOffer s).idx = s.idx := rfl
@[simp] theorem newOffer_err (s : State) :
    (newOffer s).err = s.err := rfl
@[simp] theorem newOffer_fv (s : State) :
    (newOffer s).fv = s.fv := rfl
@[simp] theorem newOffer_sink (s : State) :
    (newOffer s).sink = s.sink := rfl
@[simp] theorem newOffer_operand (s : State) :
    (newOffer s).operand = s.operand := rfl
@[simp] theorem newOffer_history (s : State) :
    (newOffer s).history = s.history := rfl
@[simp] theorem newOffer_inputs (s : State) :
    (newOffer s).inputs = s.inputs := rfl
@[simp] theorem newOffer_raised (s : State) :
    (newOffer s).raised = false := rfl
@[simp] theorem newOffer_patience (s : State) :
    (newOffer s).patience = Config.freePatience s.fresh := rfl
@[simp] theorem newOffer_slot (s : State) :
    (newOffer s).slot = s.slot := rfl
@[simp] theorem newOffer_fresh (s : State) :
    (newOffer s).fresh = s.fresh + 1 := rfl
end newOffer

section accept
@[simp] theorem accept_ph (x : Operand) (m : Nat) (bytes : List Byte) (s : State) :
    (accept x m bytes s).ph = .send := rfl
@[simp] theorem accept_buf (x : Operand) (m : Nat) (bytes : List Byte) (s : State) :
    (accept x m bytes s).buf = loadBuf bytes (Config.freeBuf s.fresh) := rfl
@[simp] theorem accept_n (x : Operand) (m : Nat) (bytes : List Byte) (s : State) :
    (accept x m bytes s).n = BitVec.ofNat 4 m := rfl
@[simp] theorem accept_idx (x : Operand) (m : Nat) (bytes : List Byte) (s : State) :
    (accept x m bytes s).idx = 0#4 := rfl
@[simp] theorem accept_err (x : Operand) (m : Nat) (bytes : List Byte) (s : State) :
    (accept x m bytes s).err = false := rfl
@[simp] theorem accept_fv (x : Operand) (m : Nat) (bytes : List Byte) (s : State) :
    (accept x m bytes s).fv = s.fv := rfl
@[simp] theorem accept_sink (x : Operand) (m : Nat) (bytes : List Byte) (s : State) :
    (accept x m bytes s).sink = s.sink := rfl
@[simp] theorem accept_operand (x : Operand) (m : Nat) (bytes : List Byte) (s : State) :
    (accept x m bytes s).operand = x := rfl
@[simp] theorem accept_history (x : Operand) (m : Nat) (bytes : List Byte) (s : State) :
    (accept x m bytes s).history = s.history := rfl
@[simp] theorem accept_inputs (x : Operand) (m : Nat) (bytes : List Byte) (s : State) :
    (accept x m bytes s).inputs = s.inputs := rfl
@[simp] theorem accept_raised (x : Operand) (m : Nat) (bytes : List Byte) (s : State) :
    (accept x m bytes s).raised = false := rfl
@[simp] theorem accept_patience (x : Operand) (m : Nat) (bytes : List Byte) (s : State) :
    (accept x m bytes s).patience = Config.freePatience s.fresh := rfl
@[simp] theorem accept_slot (x : Operand) (m : Nat) (bytes : List Byte) (s : State) :
    (accept x m bytes s).slot = s.slot := rfl
@[simp] theorem accept_fresh (x : Operand) (m : Nat) (bytes : List Byte) (s : State) :
    (accept x m bytes s).fresh = s.fresh + 1 := rfl
end accept

section sinkAppend
@[simp] theorem sinkAppend_ph (b : Byte) (s : State) :
    (sinkAppend b s).ph = s.ph := rfl
@[simp] theorem sinkAppend_buf (b : Byte) (s : State) :
    (sinkAppend b s).buf = s.buf := rfl
@[simp] theorem sinkAppend_n (b : Byte) (s : State) :
    (sinkAppend b s).n = s.n := rfl
@[simp] theorem sinkAppend_idx (b : Byte) (s : State) :
    (sinkAppend b s).idx = s.idx := rfl
@[simp] theorem sinkAppend_err (b : Byte) (s : State) :
    (sinkAppend b s).err = s.err := rfl
@[simp] theorem sinkAppend_fv (b : Byte) (s : State) :
    (sinkAppend b s).fv = s.fv := rfl
@[simp] theorem sinkAppend_sink (b : Byte) (s : State) :
    (sinkAppend b s).sink = s.sink ++ [b] := rfl
@[simp] theorem sinkAppend_operand (b : Byte) (s : State) :
    (sinkAppend b s).operand = s.operand := rfl
@[simp] theorem sinkAppend_history (b : Byte) (s : State) :
    (sinkAppend b s).history = s.history := rfl
@[simp] theorem sinkAppend_inputs (b : Byte) (s : State) :
    (sinkAppend b s).inputs = s.inputs := rfl
@[simp] theorem sinkAppend_raised (b : Byte) (s : State) :
    (sinkAppend b s).raised = s.raised := rfl
@[simp] theorem sinkAppend_patience (b : Byte) (s : State) :
    (sinkAppend b s).patience = s.patience := rfl
@[simp] theorem sinkAppend_slot (b : Byte) (s : State) :
    (sinkAppend b s).slot = s.slot := rfl
@[simp] theorem sinkAppend_fresh (b : Byte) (s : State) :
    (sinkAppend b s).fresh = s.fresh := rfl
end sinkAppend

section emitAccepted
@[simp] theorem emitAccepted_ph (s : State) :
    (emitAccepted s).ph = if lastByte s then .resp else .send := rfl
@[simp] theorem emitAccepted_buf (s : State) :
    (emitAccepted s).buf = s.buf := rfl
@[simp] theorem emitAccepted_n (s : State) :
    (emitAccepted s).n = s.n := rfl
@[simp] theorem emitAccepted_idx (s : State) :
    (emitAccepted s).idx = s.idx + 1#4 := rfl
@[simp] theorem emitAccepted_err (s : State) :
    (emitAccepted s).err = s.err := rfl
@[simp] theorem emitAccepted_fv (s : State) :
    (emitAccepted s).fv = s.fv := rfl
@[simp] theorem emitAccepted_sink (s : State) :
    (emitAccepted s).sink = s.sink ++ [offeredByte s] := rfl
@[simp] theorem emitAccepted_operand (s : State) :
    (emitAccepted s).operand = s.operand := rfl
@[simp] theorem emitAccepted_history (s : State) :
    (emitAccepted s).history = s.history := rfl
@[simp] theorem emitAccepted_inputs (s : State) :
    (emitAccepted s).inputs = s.inputs := rfl
@[simp] theorem emitAccepted_raised (s : State) :
    (emitAccepted s).raised = false := rfl
@[simp] theorem emitAccepted_patience (s : State) :
    (emitAccepted s).patience = Config.freePatience s.fresh := rfl
@[simp] theorem emitAccepted_slot (s : State) :
    (emitAccepted s).slot = s.slot := rfl
@[simp] theorem emitAccepted_fresh (s : State) :
    (emitAccepted s).fresh = s.fresh + 1 := rfl
end emitAccepted

section raiseSinkFail
@[simp] theorem raiseSinkFail_ph (e : SinkFault) (s : State) :
    (raiseSinkFail e s).ph = .resp := rfl
@[simp] theorem raiseSinkFail_buf (e : SinkFault) (s : State) :
    (raiseSinkFail e s).buf = s.buf := rfl
@[simp] theorem raiseSinkFail_n (e : SinkFault) (s : State) :
    (raiseSinkFail e s).n = s.n := rfl
@[simp] theorem raiseSinkFail_idx (e : SinkFault) (s : State) :
    (raiseSinkFail e s).idx = s.idx := rfl
@[simp] theorem raiseSinkFail_err (e : SinkFault) (s : State) :
    (raiseSinkFail e s).err = true := rfl
@[simp] theorem raiseSinkFail_fv (e : SinkFault) (s : State) :
    (raiseSinkFail e s).fv = e := rfl
@[simp] theorem raiseSinkFail_sink (e : SinkFault) (s : State) :
    (raiseSinkFail e s).sink = s.sink := rfl
@[simp] theorem raiseSinkFail_operand (e : SinkFault) (s : State) :
    (raiseSinkFail e s).operand = s.operand := rfl
@[simp] theorem raiseSinkFail_history (e : SinkFault) (s : State) :
    (raiseSinkFail e s).history = s.history := rfl
@[simp] theorem raiseSinkFail_inputs (e : SinkFault) (s : State) :
    (raiseSinkFail e s).inputs = s.inputs := rfl
@[simp] theorem raiseSinkFail_raised (e : SinkFault) (s : State) :
    (raiseSinkFail e s).raised = false := rfl
@[simp] theorem raiseSinkFail_patience (e : SinkFault) (s : State) :
    (raiseSinkFail e s).patience = Config.freePatience s.fresh := rfl
@[simp] theorem raiseSinkFail_slot (e : SinkFault) (s : State) :
    (raiseSinkFail e s).slot = s.slot := rfl
@[simp] theorem raiseSinkFail_fresh (e : SinkFault) (s : State) :
    (raiseSinkFail e s).fresh = s.fresh + 1 := rfl
end raiseSinkFail

section forget
@[simp] theorem forget_ph (s : State) :
    (forget s).ph = .idle := rfl
@[simp] theorem forget_buf (s : State) :
    (forget s).buf = Config.freeBuf s.fresh := rfl
@[simp] theorem forget_n (s : State) :
    (forget s).n = BitVec.ofNat 4 ((Config.freeLength s.fresh).val + 1) := rfl
@[simp] theorem forget_idx (s : State) :
    (forget s).idx = BitVec.ofNat 4 (Config.freeIndex s.fresh).val := rfl
@[simp] theorem forget_err (s : State) :
    (forget s).err = Config.freeErr s.fresh := rfl
@[simp] theorem forget_fv (s : State) :
    (forget s).fv = Config.freeFault s.fresh := rfl
@[simp] theorem forget_sink (s : State) :
    (forget s).sink = s.sink := rfl
@[simp] theorem forget_operand (s : State) :
    (forget s).operand = s.operand := rfl
@[simp] theorem forget_history (s : State) :
    (forget s).history = s.history := rfl
@[simp] theorem forget_inputs (s : State) :
    (forget s).inputs = s.inputs := rfl
@[simp] theorem forget_raised (s : State) :
    (forget s).raised = false := rfl
@[simp] theorem forget_patience (s : State) :
    (forget s).patience = Config.freePatience s.fresh := rfl
@[simp] theorem forget_slot (s : State) :
    (forget s).slot = s.slot := rfl
@[simp] theorem forget_fresh (s : State) :
    (forget s).fresh = s.fresh + 1 := rfl
end forget

section respond
@[simp] theorem respond_ph (s : State) :
    (respond s).ph = .idle := rfl
@[simp] theorem respond_buf (s : State) :
    (respond s).buf = Config.freeBuf s.fresh := rfl
@[simp] theorem respond_n (s : State) :
    (respond s).n = BitVec.ofNat 4 ((Config.freeLength s.fresh).val + 1) := rfl
@[simp] theorem respond_idx (s : State) :
    (respond s).idx = BitVec.ofNat 4 (Config.freeIndex s.fresh).val := rfl
@[simp] theorem respond_err (s : State) :
    (respond s).err = Config.freeErr s.fresh := rfl
@[simp] theorem respond_fv (s : State) :
    (respond s).fv = Config.freeFault s.fresh := rfl
@[simp] theorem respond_sink (s : State) :
    (respond s).sink = s.sink := rfl
@[simp] theorem respond_operand (s : State) :
    (respond s).operand = s.operand := rfl
@[simp] theorem respond_history (s : State) :
    (respond s).history = s.history ++ [.responded s.operand (response s)] := rfl
@[simp] theorem respond_inputs (s : State) :
    (respond s).inputs = s.inputs := rfl
@[simp] theorem respond_raised (s : State) :
    (respond s).raised = false := rfl
@[simp] theorem respond_patience (s : State) :
    (respond s).patience = Config.freePatience s.fresh := rfl
@[simp] theorem respond_slot (s : State) :
    (respond s).slot = s.slot := rfl
@[simp] theorem respond_fresh (s : State) :
    (respond s).fresh = s.fresh + 1 := rfl
end respond

section resetStep
@[simp] theorem resetStep_ph (s : State) :
    (resetStep s).ph = .idle := rfl
@[simp] theorem resetStep_buf (s : State) :
    (resetStep s).buf = Config.freeBuf s.fresh := rfl
@[simp] theorem resetStep_n (s : State) :
    (resetStep s).n = BitVec.ofNat 4 ((Config.freeLength s.fresh).val + 1) := rfl
@[simp] theorem resetStep_idx (s : State) :
    (resetStep s).idx = BitVec.ofNat 4 (Config.freeIndex s.fresh).val := rfl
@[simp] theorem resetStep_err (s : State) :
    (resetStep s).err = Config.freeErr s.fresh := rfl
@[simp] theorem resetStep_fv (s : State) :
    (resetStep s).fv = Config.freeFault s.fresh := rfl
@[simp] theorem resetStep_sink (s : State) :
    (resetStep s).sink = s.sink := rfl
@[simp] theorem resetStep_operand (s : State) :
    (resetStep s).operand = s.operand := rfl
@[simp] theorem resetStep_history (s : State) :
    (resetStep s).history =
      if busy s then s.history ++ [.abandoned s.operand s.idx] else s.history := rfl
@[simp] theorem resetStep_inputs (s : State) :
    (resetStep s).inputs = s.inputs := rfl
@[simp] theorem resetStep_raised (s : State) :
    (resetStep s).raised = false := rfl
@[simp] theorem resetStep_patience (s : State) :
    (resetStep s).patience = Config.freePatience s.fresh := rfl
@[simp] theorem resetStep_slot (s : State) :
    (resetStep s).slot = s.slot := rfl
@[simp] theorem resetStep_fresh (s : State) :
    (resetStep s).fresh = s.fresh + 1 := rfl
end resetStep

section passEdge
@[simp] theorem passEdge_ph (s : State) :
    (passEdge s).ph = s.ph := rfl
@[simp] theorem passEdge_buf (s : State) :
    (passEdge s).buf = s.buf := rfl
@[simp] theorem passEdge_n (s : State) :
    (passEdge s).n = s.n := rfl
@[simp] theorem passEdge_idx (s : State) :
    (passEdge s).idx = s.idx := rfl
@[simp] theorem passEdge_err (s : State) :
    (passEdge s).err = s.err := rfl
@[simp] theorem passEdge_fv (s : State) :
    (passEdge s).fv = s.fv := rfl
@[simp] theorem passEdge_sink (s : State) :
    (passEdge s).sink = s.sink := rfl
@[simp] theorem passEdge_operand (s : State) :
    (passEdge s).operand = s.operand := rfl
@[simp] theorem passEdge_history (s : State) :
    (passEdge s).history = s.history := rfl
@[simp] theorem passEdge_inputs (s : State) :
    (passEdge s).inputs = s.inputs.tail := rfl
@[simp] theorem passEdge_raised (s : State) :
    (passEdge s).raised = s.raised := rfl
@[simp] theorem passEdge_patience (s : State) :
    (passEdge s).patience = s.patience := rfl
@[simp] theorem passEdge_slot (s : State) :
    (passEdge s).slot = s.slot := rfl
@[simp] theorem passEdge_fresh (s : State) :
    (passEdge s).fresh = s.fresh := rfl
end passEdge

section passQuietly
@[simp] theorem passQuietly_ph (e : Edge) (s : State) :
    (passQuietly e s).ph = s.ph := rfl
@[simp] theorem passQuietly_buf (e : Edge) (s : State) :
    (passQuietly e s).buf = s.buf := rfl
@[simp] theorem passQuietly_n (e : Edge) (s : State) :
    (passQuietly e s).n = s.n := rfl
@[simp] theorem passQuietly_idx (e : Edge) (s : State) :
    (passQuietly e s).idx = s.idx := rfl
@[simp] theorem passQuietly_err (e : Edge) (s : State) :
    (passQuietly e s).err = s.err := rfl
@[simp] theorem passQuietly_fv (e : Edge) (s : State) :
    (passQuietly e s).fv = s.fv := rfl
@[simp] theorem passQuietly_sink (e : Edge) (s : State) :
    (passQuietly e s).sink = s.sink := rfl
@[simp] theorem passQuietly_operand (e : Edge) (s : State) :
    (passQuietly e s).operand = s.operand := rfl
@[simp] theorem passQuietly_history (e : Edge) (s : State) :
    (passQuietly e s).history = s.history := rfl
@[simp] theorem passQuietly_inputs (e : Edge) (s : State) :
    (passQuietly e s).inputs = s.inputs := rfl
@[simp] theorem passQuietly_raised (e : Edge) (s : State) :
    (passQuietly e s).raised = (byteValid s e || rspValid s e) := rfl
@[simp] theorem passQuietly_patience (e : Edge) (s : State) :
    (passQuietly e s).patience =
      if holds s e then s.patience - 1 else Config.freePatience s.fresh := rfl
@[simp] theorem passQuietly_slot (e : Edge) (s : State) :
    (passQuietly e s).slot = s.slot := rfl
@[simp] theorem passQuietly_fresh (e : Edge) (s : State) :
    (passQuietly e s).fresh = s.fresh + 1 := rfl
end passQuietly

section clearSlot
@[simp] theorem clearSlot_ph (s : State) :
    (clearSlot s).ph = s.ph := rfl
@[simp] theorem clearSlot_buf (s : State) :
    (clearSlot s).buf = s.buf := rfl
@[simp] theorem clearSlot_n (s : State) :
    (clearSlot s).n = s.n := rfl
@[simp] theorem clearSlot_idx (s : State) :
    (clearSlot s).idx = s.idx := rfl
@[simp] theorem clearSlot_err (s : State) :
    (clearSlot s).err = s.err := rfl
@[simp] theorem clearSlot_fv (s : State) :
    (clearSlot s).fv = s.fv := rfl
@[simp] theorem clearSlot_sink (s : State) :
    (clearSlot s).sink = s.sink := rfl
@[simp] theorem clearSlot_operand (s : State) :
    (clearSlot s).operand = s.operand := rfl
@[simp] theorem clearSlot_history (s : State) :
    (clearSlot s).history = s.history := rfl
@[simp] theorem clearSlot_inputs (s : State) :
    (clearSlot s).inputs = s.inputs := rfl
@[simp] theorem clearSlot_raised (s : State) :
    (clearSlot s).raised = s.raised := rfl
@[simp] theorem clearSlot_patience (s : State) :
    (clearSlot s).patience = s.patience := rfl
@[simp] theorem clearSlot_slot (s : State) :
    (clearSlot s).slot = none := rfl
@[simp] theorem clearSlot_fresh (s : State) :
    (clearSlot s).fresh = s.fresh := rfl
end clearSlot

end Sys2Proof.Machine
end

