-- ==== Sys2Proof/Laws/Ops.lean ====
section
/-! SUPPORT. For each shared operation, one lemma that says all it can do: the load of BUF, ACCEPT,
the instructions, the transfers of an edge, and the step. -/

namespace Sys2Proof.Machine

/-- encode(x) is never empty and never longer than BUF. -/
theorem encodeBytes_length_eq (x : Operand) : (encodeBytes x).length = lengthClass x := by
  have h1 := lengthClass_pos x
  unfold encodeBytes
  split
  · rename_i h; simp [h]
  · simp; omega

/-- BUF after a load holds the loaded bytes in its first places (R22). -/
theorem loadBuf_take (bytes : List Byte) (rest : Vector Byte 9) (h : bytes.length ≤ 9) :
    (loadBuf bytes rest).toList.take bytes.length = bytes := by
  rcases bytes with _ | ⟨a, _ | ⟨b, _ | ⟨c, _ | ⟨d, _ | ⟨e, _ | ⟨f, _ | ⟨g, _ | ⟨i, _ | ⟨j, l⟩⟩⟩⟩⟩⟩⟩⟩⟩
  case cons.cons.cons.cons.cons.cons.cons.cons.cons =>
    rcases l with _ | ⟨k, l⟩
    · simp [loadBuf]
    · simp only [List.length_cons] at h; omega
  all_goals simp [loadBuf]

/-- Outside IDLE an operand waits (R122, R128). -/
theorem acceptIfIdle_busy (x : Operand) (m : Nat) (bytes : List Byte) (s : State)
    (h : s.ph ≠ .idle) : acceptIfIdle x m bytes s = s := by
  unfold acceptIfIdle; split <;> simp_all

/-- In IDLE an operand is accepted (R122). -/
theorem acceptIfIdle_idle (x : Operand) (m : Nat) (bytes : List Byte) (s : State)
    (h : s.ph = .idle) : acceptIfIdle x m bytes s = accept x m bytes s := by
  simp [acceptIfIdle, h]

/-- What BLD hands over for a form: its bytes where the class is the form's, n free bytes where it
is not (R110). -/
theorem builtBytes_cases (x : Operand) (m : Nat) (bytes : List Byte) (s : State) :
    (lengthClass x = m ∧ builtBytes x m bytes s = bytes) ∨
    (lengthClass x ≠ m ∧ builtBytes x m bytes s = (Config.freeForm s.fresh).toList.take m) := by
  unfold builtBytes; split <;> simp_all

/-- The bytes an instruction hands to ACCEPT. -/
def instrBytes (i : Instr) (s : State) : List Byte :=
  match i with
  | .encode x => encodeBytes x
  | .enc1 v => builtBytes (v.setWidth 64) 1 (form1 (v.setWidth 64)) s
  | .enc2 v => builtBytes (v.setWidth 64) 2 (form2 (v.setWidth 64)) s
  | .enc3 v => builtBytes (v.setWidth 64) 3 (form3 (v.setWidth 64)) s
  | .enc4 v => builtBytes (v.setWidth 64) 4 (form4 (v.setWidth 64)) s
  | .enc5 v => builtBytes (v.setWidth 64) 5 (form5 (v.setWidth 64)) s
  | .enc6 v => builtBytes (v.setWidth 64) 6 (form6 (v.setWidth 64)) s
  | .enc7 v => builtBytes (v.setWidth 64) 7 (form7 (v.setWidth 64)) s
  | .enc8 v => builtBytes (v.setWidth 64) 8 (form8 (v.setWidth 64)) s
  | .enc9 v => builtBytes v 9 (form9 v) s

/-- Every instruction is an ACCEPT of its operand, its length and its bytes (R122). -/
theorem exec_eq (i : Instr) (s : State) :
    exec i s = .next (acceptIfIdle i.operand i.length (instrBytes i s) s) := by
  cases i <;> rfl

/-! What a state shows is the same once its edge is past: none of it looks at the schedule. -/

@[simp] theorem holds_passEdge (s : State) (e : Edge) : holds (passEdge s) e = holds s e := rfl
@[simp] theorem byteValid_passEdge (s : State) (e : Edge) :
    byteValid (passEdge s) e = byteValid s e := rfl
@[simp] theorem rspValid_passEdge (s : State) (e : Edge) :
    rspValid (passEdge s) e = rspValid s e := rfl
@[simp] theorem lastByte_passEdge (s : State) : lastByte (passEdge s) = lastByte s := rfl
@[simp] theorem offeredByte_passEdge (s : State) : offeredByte (passEdge s) = offeredByte s := rfl
@[simp] theorem response_passEdge (s : State) : response (passEdge s) = response s := rfl

/-- ENC holds nothing back at an edge that does not ask for it. -/
theorem holds_of_not_hold (s : State) {e : Edge} (h : e.hold = false) : holds s e = false := by
  simp [holds, h]

/-- Once the edges it may hold back are used up, ENC holds nothing back (R31 (c), R131). -/
theorem holds_of_patience_zero {s : State} (e : Edge) (h : s.patience = 0) : holds s e = false := by
  simp [holds, h]

/-- An edge at which ENC holds back is one fewer to hold back; at any other, ENC's valid is up if it
is in SEND or RESP (R31 (a), (c)). -/
theorem passQuietly_cases (s : State) (e : Edge) :
    (holds s e = true ∧ (passQuietly e s).patience + 1 = s.patience) ∨
    (holds s e = false ∧ (passQuietly e s).raised = (s.ph == .send || s.ph == .resp)) := by
  cases h : holds s e
  · exact .inr ⟨rfl, by simp [byteValid, rspValid, h]⟩
  · have hp : s.patience ≠ 0 := fun h0 => by simp [holds_of_patience_zero e h0] at h
    exact .inl ⟨rfl, by simp only [passQuietly_patience, h, if_true]; omega⟩

/-- The transfers an edge can cause, and when (R30, R148). -/
theorem transfer_cases (s : State) (e : Edge) :
    (e.rst = true ∧ transfer s e = .reset) ∨
    (e.rst = false ∧ s.ph = .idle ∧ ∃ i, s.slot = some i ∧ transfer s e = .request i) ∨
    (e.rst = false ∧ s.ph = .idle ∧ s.slot = none ∧ e.reqValid = true ∧ holds s e = false ∧
      transfer s e = .request (.encode e.reqX)) ∨
    (e.rst = false ∧ s.ph = .send ∧ byteValid s e = true ∧ e.byteFail = true ∧
      transfer s e = .byteFailed e.byteFault) ∨
    (e.rst = false ∧ s.ph = .send ∧ byteValid s e = true ∧ e.byteFail = false ∧
      e.byteReady = true ∧ transfer s e = .byteAccepted) ∨
    (e.rst = false ∧ s.ph = .resp ∧ rspValid s e = true ∧ e.rspReady = true ∧
      transfer s e = .response) ∨
    (e.rst = false ∧ (e.reqValid && reqReady s e) = false ∧
      (byteValid s e && (e.byteReady || e.byteFail)) = false ∧
      (rspValid s e && e.rspReady) = false ∧ transfer s e = .nothing) := by
  cases hr : e.rst
  · cases hp : s.ph
    · cases hs : s.slot
      · cases hv : e.reqValid <;> cases hh : holds s e <;>
          simp [transfer, reqReady, byteValid, rspValid, hr, hp, hs, hv, hh]
      · simp [transfer, hr, hp, hs]
    · cases hv : byteValid s e <;> cases hf : e.byteFail <;> cases ha : e.byteReady <;>
        simp [transfer, reqReady, rspValid, hr, hp, hv, hf, ha]
    · cases hv : rspValid s e <;> cases ha : e.rspReady <;>
        simp [transfer, reqReady, byteValid, hr, hp, hv, ha]
  · simp [transfer, hr]

/-- All a step can do when it answers a next state (R121), in a state whose slot is empty. -/
theorem step_cases {s t : State} (hslot : s.slot = none) (h : step s = .next t) :
    ((edge s).rst = true ∧ t = resetStep (passEdge s)) ∨
    ((edge s).rst = false ∧ s.ph = .idle ∧ (edge s).reqValid = true ∧ holds s (edge s) = false ∧
      t = accept (edge s).reqX (lengthClass (edge s).reqX) (encodeBytes (edge s).reqX)
        (clearSlot (passEdge s))) ∨
    ((edge s).rst = false ∧ s.ph = .send ∧ byteValid s (edge s) = true ∧
      (edge s).byteFail = false ∧ (edge s).byteReady = true ∧ t = emitAccepted (passEdge s)) ∨
    ((edge s).rst = false ∧ s.ph = .send ∧ byteValid s (edge s) = true ∧
      (edge s).byteFail = true ∧ t = raiseSinkFail (edge s).byteFault (passEdge s)) ∨
    ((edge s).rst = false ∧ s.ph = .resp ∧ rspValid s (edge s) = true ∧
      (edge s).rspReady = true ∧ t = respond (passEdge s)) ∨
    ((edge s).rst = false ∧ ((edge s).reqValid && reqReady s (edge s)) = false ∧
      (byteValid s (edge s) && ((edge s).byteReady || (edge s).byteFail)) = false ∧
      (rspValid s (edge s) && (edge s).rspReady) = false ∧
      t = passQuietly (edge s) (passEdge s)) := by
  unfold step at h
  rcases transfer_cases s (edge s) with ⟨hr, ht⟩ | ⟨_, _, i, hs, _⟩ | ⟨hr, hp, _, hv, hh, ht⟩ |
    ⟨hr, hp, hv, hf, ht⟩ | ⟨hr, hp, hv, hf, ha, ht⟩ | ⟨hr, hp, hv, ha, ht⟩ | ⟨hr, h1, h2, h3, ht⟩
  · rw [ht] at h; cases h; exact .inl ⟨hr, rfl⟩
  · rw [hslot] at hs; cases hs
  · rw [ht] at h
    simp only [exec_eq, Instr.operand, Instr.length, instrBytes] at h
    cases h
    exact .inr (.inl ⟨hr, hp, hv, hh, acceptIfIdle_idle _ _ _ _ hp⟩)
  · rw [ht] at h; cases h; exact .inr (.inr (.inr (.inl ⟨hr, hp, hv, hf, rfl⟩)))
  · rw [ht] at h; cases h; exact .inr (.inr (.inl ⟨hr, hp, hv, hf, ha, rfl⟩))
  · rw [ht] at h; cases h; exact .inr (.inr (.inr (.inr (.inl ⟨hr, hp, hv, ha, rfl⟩))))
  · rw [ht] at h; cases h; exact .inr (.inr (.inr (.inr (.inr ⟨hr, h1, h2, h3, rfl⟩))))

end Sys2Proof.Machine
end

