-- ==== Sys2Proof/Laws/Sequence.lean ====
section
/-! SUPPORT. Byte sequences read as big-endian numbers: what `valueBE` gives for a cons, for the
bytes BLD lays down and for the bytes the encoder lays down, and that sequences of one length with
one value are one sequence. -/

namespace Sys2Proof

theorem foldl_valueBE (l : List Byte) (a : Nat) :
    l.foldl (fun w b => w * 256 + b.toNat) a = a * 256 ^ l.length + valueBE l := by
  induction l generalizing a with
  | nil => simp [valueBE]
  | cons b t ih =>
    have e : valueBE (b :: t) = (0 * 256 + b.toNat) * 256 ^ t.length + valueBE t := by
      rw [valueBE, List.foldl_cons, ih]
    rw [e, List.foldl_cons, ih, List.length_cons]
    ring

theorem valueBE_cons (b : Byte) (t : List Byte) :
    valueBE (b :: t) = b.toNat * 256 ^ t.length + valueBE t := by
  rw [valueBE, List.foldl_cons, foldl_valueBE]; simp

theorem valueBE_lt (l : List Byte) : valueBE l < 256 ^ l.length := by
  induction l with
  | nil => simp [valueBE]
  | cons b t ih =>
    have hb : (b.toNat + 1) * 256 ^ t.length ≤ 256 * 256 ^ t.length :=
      Nat.mul_le_mul_right _ b.isLt
    rw [valueBE_cons, List.length_cons, Nat.pow_succ]
    linarith

/-- Sequences of one length with one value are equal. -/
theorem valueBE_injective (a b : List Byte) (hl : a.length = b.length)
    (hv : valueBE a = valueBE b) : a = b := by
  induction a generalizing b with
  | nil => simpa using hl.symm
  | cons x t ih =>
    cases b with
    | nil => simp at hl
    | cons y u =>
      have hl' : t.length = u.length := by simpa using hl
      have ht := valueBE_lt t
      have hu := valueBE_lt u
      rw [valueBE_cons, valueBE_cons, hl'] at hv
      rw [hl'] at ht
      have hpos : 0 < 256 ^ u.length := by positivity
      have hx : x.toNat = y.toNat := by
        have := congrArg (· / 256 ^ u.length) hv
        simp only [Nat.mul_comm _ (256 ^ u.length), Nat.mul_add_div hpos, Nat.div_eq_of_lt ht,
          Nat.div_eq_of_lt hu] at this
        simpa using this
      have hr : valueBE t = valueBE u := by rw [hx] at hv; omega
      rw [BitVec.eq_of_toNat_eq hx, ih u hl' hr]

@[simp] theorem length_bytesBE (len w : Nat) : (bytesBE len w).length = len := by
  induction len with
  | zero => rfl
  | succ k ih => simp [bytesBE, ih]

/-- The bytes laid down for w read back as w, as far as they reach. -/
theorem valueBE_bytesBE (len w : Nat) : valueBE (bytesBE len w) = w % 2 ^ (8 * len) := by
  induction len with
  | zero => simp [bytesBE, valueBE, Nat.mod_one]
  | succ k ih =>
    rw [bytesBE, valueBE_cons, ih, length_bytesBE, Nat.mul_succ, Nat.pow_add, Nat.mod_mul,
      show (256 : Nat) = 2 ^ 8 from rfl, ← Nat.pow_mul]
    simp [Nat.shiftRight_eq_div_pow]
    ring

/-- The payload bytes of R99 and R108 read as the low bits of x. -/
theorem valueBE_bytesDown (x : Operand) (m : Nat) :
    valueBE (Machine.bytesDown x m) = x.toNat % 2 ^ (8 * m) := by
  induction m with
  | zero => simp [Machine.bytesDown, valueBE, Nat.mod_one]
  | succ k ih =>
    rw [Machine.bytesDown, valueBE_cons, ih, Machine.bytesDown_length, Machine.byteOf_toNat,
      Nat.mul_succ, Nat.pow_add, Nat.mod_mul, show (256 : Nat) = 2 ^ 8 from rfl, ← Nat.pow_mul]
    ring

/-- The marker of R97 from the byte of x it takes its data bits from. -/
theorem marker_eq (x : Operand) (n : Nat) :
    Machine.marker x n =
      Machine.prefixMask n ||| (Machine.byteOf x (n - 1) &&& Machine.dataMask n) := by
  unfold Machine.marker
  congr 1
  apply BitVec.eq_of_getLsbD_eq
  intro i hi
  simp only [Machine.byteOf, BitVec.getLsbD_setWidth, BitVec.getLsbD_and, hi]
  interval_cases i <;> simp

end Sys2Proof
end

