-- ==== Sys2Proof/Laws/PerInstr.lean ====
section
/-! SUPPORT. One statement for all instructions, proved constructor by constructor: an encoded form
has as many bytes as its length class says (R61), and a request is one word (R60). -/

namespace Sys2Proof.Laws

/-- The item has the size R60 and R61 give it. -/
def EncodedSize.Statement (i : Instr) : Prop :=
  match encode i with
  | .request x => x = i.operand
  | .form bytes => bytes.length = i.length

theorem EncodedSize.encode (x : BitVec 64) : EncodedSize.Statement (.encode x) := rfl

theorem EncodedSize.enc1 (v : BitVec 7) : EncodedSize.Statement (.enc1 v) := length_bytesBE _ _

theorem EncodedSize.enc2 (v : BitVec 14) : EncodedSize.Statement (.enc2 v) := length_bytesBE _ _

theorem EncodedSize.enc3 (v : BitVec 21) : EncodedSize.Statement (.enc3 v) := length_bytesBE _ _

theorem EncodedSize.enc4 (v : BitVec 28) : EncodedSize.Statement (.enc4 v) := length_bytesBE _ _

theorem EncodedSize.enc5 (v : BitVec 35) : EncodedSize.Statement (.enc5 v) := length_bytesBE _ _

theorem EncodedSize.enc6 (v : BitVec 42) : EncodedSize.Statement (.enc6 v) := length_bytesBE _ _

theorem EncodedSize.enc7 (v : BitVec 49) : EncodedSize.Statement (.enc7 v) := length_bytesBE _ _

theorem EncodedSize.enc8 (v : BitVec 56) : EncodedSize.Statement (.enc8 v) := length_bytesBE _ _

theorem EncodedSize.enc9 (v : BitVec 64) : EncodedSize.Statement (.enc9 v) := length_bytesBE _ _

end Sys2Proof.Laws
end

