-- ==== Sys2Proof/Tests/Slice0.lean ====
section
/-! SUPPORT. The model's own tests. Expected values are the vectors of spec/95_test_vectors.md, the
tables of 30_encoding.md, 40_classify.md and 41_build.md, or written out by hand from them; and one
witness for every statement of Certificates/Slice0/Obligations.lean that has hypotheses. -/

namespace Sys2Proof.Tests

open Sys2Proof Sys2Proof.Machine

/-! ### CLS and BLD -/

/-- 40_classify.md R81, the source's threshold table. -/
theorem test_thresholds : (List.range' 1 8).map threshold =
    [0x7f, 0x3fff, 0x1fffff, 0xfffffff, 0x7ffffffff, 0x3ffffffffff, 0x1ffffffffffff,
      0xffffffffffffff] := by decide

/-- 95_test_vectors.md 2.1: the class at every boundary. -/
theorem test_class_at_boundaries :
    [0x0#64, 0x7f, 0x80, 0x3fff, 0x4000, 0x1fffff, 0x200000, 0xfffffff, 0x10000000, 0x7ffffffff,
      0x800000000, 0x3ffffffffff, 0x40000000000, 0x1ffffffffffff, 0x2000000000000,
      0xffffffffffffff, 0x100000000000000, 0xffffffffffffffff].map lengthClass =
    [1, 1, 2, 2, 3, 3, 4, 4, 5, 5, 6, 6, 7, 7, 8, 8, 9, 9] := by decide

/-- 95_test_vectors.md 2.2, the corners of R85: x = 0, p = 55, 56 and 63. -/
theorem test_highest_bit_corners :
    [0x0#64, 0x80000000000000, 0x100000000000000, 0x8000000000000000].map highestBitClass =
    [1, 8, 9, 9] := by decide

/-- 95_test_vectors.md 1.1, the ten vectors of the source. -/
theorem test_source_vectors :
    encodeBytes 0x00#64 = [0x00] ∧ encodeBytes 0x7f#64 = [0x7f] ∧
    encodeBytes 0x80#64 = [0x80, 0x80] ∧ encodeBytes 0x2010#64 = [0xa0, 0x10] ∧
    encodeBytes 0x3fff#64 = [0xbf, 0xff] ∧ encodeBytes 0x4000#64 = [0xc0, 0x40, 0x00] ∧
    encodeBytes 0x1fffff#64 = [0xdf, 0xff, 0xff] ∧
    encodeBytes 0x200000#64 = [0xe0, 0x20, 0x00, 0x00] ∧
    encodeBytes 0xffffffffffffff#64 = [0xfe, 0xff, 0xff, 0xff, 0xff, 0xff, 0xff, 0xff] ∧
    encodeBytes 0x0100000000000000#64 =
      [0xff, 0x01, 0x00, 0x00, 0x00, 0x00, 0x00, 0x00, 0x00] := by decide

/-- 95_test_vectors.md 2.1 and 3, forms ENC4 to ENC7, which the source's vectors lack. -/
theorem test_derived_vectors :
    encodeBytes 0xfffffff#64 = [0xef, 0xff, 0xff, 0xff] ∧
    encodeBytes 0x712345678#64 = [0xf7, 0x12, 0x34, 0x56, 0x78] ∧
    encodeBytes 0x100000000#64 = [0xf1, 0x00, 0x00, 0x00, 0x00] ∧
    encodeBytes 0x123456789ab#64 = [0xf9, 0x23, 0x45, 0x67, 0x89, 0xab] ∧
    encodeBytes 0x123456789abcd#64 = [0xfd, 0x23, 0x45, 0x67, 0x89, 0xab, 0xcd] ∧
    encodeBytes 0xfedcba9876543210#64 =
      [0xff, 0xfe, 0xdc, 0xba, 0x98, 0x76, 0x54, 0x32, 0x10] := by decide

/-- 41_build.md R95 and R96, the two tables of masks. -/
theorem test_masks :
    (List.range' 1 8).map prefixMask = [0x00#8, 0x80, 0xc0, 0xe0, 0xf0, 0xf8, 0xfc, 0xfe] ∧
    (List.range' 1 8).map dataMask = [0x7f#8, 0x3f, 0x1f, 0x0f, 0x07, 0x03, 0x01, 0x00] := by decide

/-! ### Decoding, each word written out from 30_encoding.md R60 and R62 -/

theorem test_decode_encode : decode (.request 0x2010#64) = .ok (.encode 0x2010#64) := rfl
/-- `0xxxxxxx` with data 1111111. -/
theorem test_decode_enc1 : decode (.form [0b01111111#8]) = .ok (.enc1 0x7f#7) := rfl
/-- `10xxxxxx xxxxxxxx`. -/
theorem test_decode_enc2 :
    decode (.form [0b10100000#8, 0b00010000#8]) = .ok (.enc2 0x2010#14) := rfl
/-- `110xxxxx` and two payload bytes. -/
theorem test_decode_enc3 :
    decode (.form [0b11000001#8, 0x23#8, 0x45#8]) = .ok (.enc3 0x12345#21) := rfl
/-- `1110xxxx` and three payload bytes. -/
theorem test_decode_enc4 :
    decode (.form [0b11100001#8, 0x23#8, 0x45#8, 0x67#8]) = .ok (.enc4 0x1234567#28) := rfl
/-- `11110xxx` and four payload bytes. -/
theorem test_decode_enc5 :
    decode (.form [0b11110111#8, 0x12#8, 0x34#8, 0x56#8, 0x78#8]) = .ok (.enc5 0x712345678#35) :=
  rfl
/-- `111110xx` and five payload bytes. -/
theorem test_decode_enc6 :
    decode (.form [0b11111001#8, 0x23#8, 0x45#8, 0x67#8, 0x89#8, 0xab#8]) =
      .ok (.enc6 0x123456789ab#42) := rfl
/-- `1111110x` and six payload bytes. -/
theorem test_decode_enc7 :
    decode (.form [0b11111101#8, 0x23#8, 0x45#8, 0x67#8, 0x89#8, 0xab#8, 0xcd#8]) =
      .ok (.enc7 0x123456789abcd#49) := rfl
/-- `11111110` and seven payload bytes. -/
theorem test_decode_enc8 :
    decode (.form [0b11111110#8, 0xab#8, 0xcd#8, 0xef#8, 0x01#8, 0x23#8, 0x45#8, 0x67#8]) =
      .ok (.enc8 0xabcdef01234567#56) := rfl
/-- `11111111` and eight payload bytes. -/
theorem test_decode_enc9 :
    decode (.form [0b11111111#8, 0x01#8, 0x23#8, 0x45#8, 0x67#8, 0x89#8, 0xab#8, 0xcd#8, 0xef#8]) =
      .ok (.enc9 0x0123456789abcdef#64) := rfl

/-- A sequence shorter than its marker says, and no bytes at all (R66, R154). -/
theorem test_decode_rejects :
    decode (.form [0x80#8]) = .error (.wrongLength 2 1) ∧ decode (.form []) = .error .empty :=
  ⟨rfl, rfl⟩

/-- The host's numbering: the first byte in bits 7..0, and a request word as it is. -/
theorem test_table_words :
    decodeTableWord 16 0x10a0 = some (.enc2 0x2010#14) ∧
    decodeTableWord 64 0x2010 = some (.encode 0x2010#64) ∧
    decodeTableWord 64 0x670123efcdab00fe = some (.enc8 0x00abcdef230167#56) ∧
    decodeTableWord 16 0x10e0 = none := by decide

/-! ### Well-formedness: a form whose operand is of another class is refused by the check -/

theorem test_wellFormed :
    [Instr.encode 0x0#64, .encode 0xffffffffffffffff#64, .enc1 0x7f#7, .enc2 0x80#14, .enc3 0x4000#21,
      .enc4 0x200000#28, .enc5 0x10000000#35, .enc6 0x800000000#42, .enc7 0x40000000000#49,
      .enc8 0x2000000000000#56, .enc9 0x100000000000000#64].all Instr.wellFormed = true := by decide

/-- 95_test_vectors.md 4: `80 7f`, `c0 3f ff`, `fe 01 ff ...`, `ff 00 ff ...` and their like. -/
theorem test_illFormed :
    [Instr.enc2 0x7f#14, .enc3 0x3fff#21, .enc4 0x1fffff#28, .enc5 0xfffffff#35, .enc6 0x7ffffffff#42,
      .enc7 0x3ffffffffff#49, .enc8 0x1ffffffffffff#56, .enc9 0xffffffffffffff#64].any
      Instr.wellFormed = false := by decide

/-! ### Steps -/

/-- What a test looks at of an outcome. -/
def view {α : Type} (f : State → α) : Host.Outcome State Fault Refusal → Option α
  | .next t => some (f t)
  | .fault _ => none
  | .refused _ => none

/-- An operation on x of which i bytes have been accepted, with these edges to come. -/
def sending (x : Operand) (i : Nibble) (inputs : List Edge) : State :=
  { State.reset with
    ph := .send, n := BitVec.ofNat 4 (lengthClass x), operand := x, idx := i
    buf := loadBuf (encodeBytes x) (Vector.replicate 9 0#8)
    sink := (encodeBytes x).take i.toNat, inputs := inputs }

/-- An ended operation on x, all of its bytes accepted, with these edges to come. -/
def responding (x : Operand) (inputs : List Edge) : State :=
  { sending x (BitVec.ofNat 4 (lengthClass x)) inputs with ph := .resp }

/-- 95_test_vectors.md 5.1, ACCEPT(0x2010). -/
theorem test_execEncode :
    view (fun t => (t.ph, t.n, t.idx, t.err, t.buf.toList.take 2)) (exec (.encode 0x2010#64) State.reset) =
      some (.send, 2#4, 0#4, false, [0xa0, 0x10]) := by decide

/-- The nine forms, each with its smallest operand (R100 to R108, corner cases). -/
theorem test_execForms :
    view (fun t => t.buf.toList.take 1) (exec (.enc1 0#7) State.reset) = some [0x00] ∧
    view (fun t => t.buf.toList.take 2) (exec (.enc2 0x80#14) State.reset) = some [0x80, 0x80] ∧
    view (fun t => t.buf.toList.take 3) (exec (.enc3 0x4000#21) State.reset) =
      some [0xc0, 0x40, 0x00] ∧
    view (fun t => t.buf.toList.take 4) (exec (.enc4 0x200000#28) State.reset) =
      some [0xe0, 0x20, 0x00, 0x00] ∧
    view (fun t => t.buf.toList.take 5) (exec (.enc5 0x10000000#35) State.reset) =
      some [0xf0, 0x10, 0x00, 0x00, 0x00] ∧
    view (fun t => t.buf.toList.take 6) (exec (.enc6 0x800000000#42) State.reset) =
      some [0xf8, 0x08, 0x00, 0x00, 0x00, 0x00] ∧
    view (fun t => t.buf.toList.take 7) (exec (.enc7 0x40000000000#49) State.reset) =
      some [0xfc, 0x04, 0x00, 0x00, 0x00, 0x00, 0x00] ∧
    view (fun t => t.buf.toList.take 8) (exec (.enc8 0x2000000000000#56) State.reset) =
      some [0xfe, 0x02, 0x00, 0x00, 0x00, 0x00, 0x00, 0x00] ∧
    view (fun t => t.buf.toList.take 9) (exec (.enc9 0x100000000000000#64) State.reset) =
      some [0xff, 0x01, 0x00, 0x00, 0x00, 0x00, 0x00, 0x00, 0x00] := by decide

/-- 95_test_vectors.md 5.1: the first byte is accepted, then the last. -/
theorem test_emit :
    view (fun t => (t.ph, t.idx, t.sink)) (step (sending 0x2010#64 0#4 [Edge.accept])) =
      some (.send, 1#4, [0xa0]) ∧
    view (fun t => (t.ph, t.idx, t.sink)) (step (sending 0x2010#64 1#4 [Edge.accept])) =
      some (.resp, 2#4, [0xa0, 0x10]) := by decide

/-- 95_test_vectors.md 5.4 and 5.7: the third byte of `e0 20 00 00` fails with e, `byte_ready` being
1 as well. -/
theorem test_fail (e : SinkFault) :
    view (fun t => (t.ph, t.n, t.idx, t.err, t.fv, t.sink))
      (step (sending 0x200000#64 2#4 [{ Edge.fail e with byteReady := true }])) =
      some (.resp, 4#4, 2#4, true, e, [0xe0, 0x20]) := rfl

/-- 95_test_vectors.md 5.1, RESPOND. -/
theorem test_respond :
    view (fun t => (t.ph, t.responses.map fun p => (p.1, p.2.err, p.2.count)))
      (step (responding 0x2010#64 [Edge.take])) = some (.idle, [(0x2010#64, false, 2#4)]) := by decide

/-- 95_test_vectors.md Program 4: RESET with IDX = 3. -/
theorem test_reset_midway :
    view (fun t => (t.ph, t.sink, t.responses.length, t.history))
      (step (sending 0x0123456789abcdef#64 3#4 [Edge.reset])) =
      some (.idle, [0xff, 0x01, 0x23], 0, [.abandoned 0x0123456789abcdef#64 3#4]) := by decide

/-- A held-back valid is down, but not once no edge is left to hold it back; once it has been up it
stays up (R31, R131). -/
theorem test_hold :
    byteValid { sending 0x2010#64 0#4 [] with patience := 1 } { Edge.accept with hold := true } =
      false ∧
    view (fun t => byteValid t { Edge.accept with hold := true })
      (step { sending 0x2010#64 0#4 [{ Edge.accept with hold := true }] with patience := 1 }) =
      some true ∧
    view (fun t => byteValid t { Edge.accept with hold := true })
      (step (sending 0x2010#64 0#4 [Edge.quiet])) = some true := by decide

/-- Every row of the table, with the fixed bits of its row and zeros for the rest, is fetched and
run as the first instruction after reset. -/
theorem test_withFetchWord :
    ([(64, 0), (8, 0x00), (16, 0x80), (24, 0xc0), (32, 0xe0), (40, 0xf0), (48, 0xf8), (56, 0xfc),
      (64, 0xfe), (72, 0xff)].map fun p =>
        (view (fun t => t.n) (step (State.reset.withFetchWord p.1 p.2)))) =
    [1#4, 1#4, 2#4, 3#4, 4#4, 5#4, 6#4, 7#4, 8#4, 9#4].map some := by decide

/-- 95_test_vectors.md Program 5 (a), one step: what instance 1 gets accepted enters the shared
sink under its number. -/
theorem test_shared :
    (match Shared.stepOf 1 ⟨[State.reset, sending 0x80#64 0#4 [Edge.accept]], [(none, 0xaa#8)]⟩ with
      | .next h => h.joined
      | .fault _ => []
      | .refused _ => []) = [(none, 0xaa#8), (some 1, 0x80#8)] := by decide

/-! ### Witnesses: the hypotheses of each statement, met together, at boundary values -/

theorem witness_ClassIsSmallestFittingLength :
    (0xffffffffffffff#64).toNat < 2 ^ 56 ∧ lengthClass 0xffffffffffffff#64 = 8 ∧
    1 ≤ 7 ∧ 7 < lengthClass 0xffffffffffffff#64 ∧ 2 ^ 56 ≤ (0x100000000000000#64).toNat ∧
    lengthClass 0x100000000000000#64 = 9 := by decide

theorem witness_ClassRanges :
    (1 ≤ 1 ∧ 1 ≤ 9 ∧ lengthClass 0x0#64 = 1) ∧ (1 ≤ 9 ∧ lengthClass 0xffffffffffffffff#64 = 9) := by
  decide

theorem witness_BoundaryValuesChangeClass :
    lengthClass (BitVec.ofNat 64 (2 ^ (7 * 1))) = 2 ∧ lengthClass (BitVec.ofNat 64 (2 ^ (7 * 8))) = 9 := by
  decide

theorem witness_MasksHaveTheirBits :
    (prefixMask 1).getLsbD 7 = false ∧ (dataMask 1).getLsbD 6 = true ∧
    (prefixMask 8).getLsbD 1 = true ∧ (dataMask 8).getLsbD 0 = false := by decide

theorem witness_MarkerMaskRemovesNothing : lengthClass 0xffffffffffffff#64 ≤ 8 := by decide

/-- The bounds of the nine ranges of the statement; each is its class's (R86). -/
theorem witness_FormsHaveTheirPseudocode :
    (∀ k, (fun k => BitVec.ofNat 8 ((0x3fff#64).toNat >>> (8 * k))) k =
      BitVec.ofNat 8 ((0x3fff#64).toNat >>> (8 * k))) ∧
    encodeBytes 0x7f#64 = [0x7f] ∧ encodeBytes 0x80#64 = [0x80, 0x80] ∧
    encodeBytes 0x4000#64 = [0xc0, 0x40, 0x00] ∧
    encodeBytes 0x200000#64 = [0xe0, 0x20, 0x00, 0x00] ∧
    encodeBytes 0x10000000#64 = [0xf0, 0x10, 0x00, 0x00, 0x00] ∧
    encodeBytes 0x800000000#64 = [0xf8, 0x08, 0x00, 0x00, 0x00, 0x00] ∧
    encodeBytes 0x40000000000#64 = [0xfc, 0x04, 0x00, 0x00, 0x00, 0x00, 0x00] ∧
    encodeBytes 0x2000000000000#64 = [0xfe, 0x02, 0x00, 0x00, 0x00, 0x00, 0x00, 0x00] ∧
    encodeBytes 0x100000000000000#64 =
      [0xff, 0x01, 0x00, 0x00, 0x00, 0x00, 0x00, 0x00, 0x00] := by
  refine ⟨fun _ => rfl, ?_⟩
  decide

theorem witness_EveryOperandBitHasItsPlace :
    (1 ≤ 1 ∧ 1 < lengthClass 0x2010#64 ∧ (encodeBytes 0x2010#64)[1]? = some 0x10#8) ∧
    (lengthClass 0x2010#64 ≤ 8 ∧ 5 < 8 - lengthClass 0x2010#64) ∧
    lengthClass 0x100000000000000#64 = 9 := by decide

theorem witness_FirstByteFixesLength :
    lengthClass 0xffffffffffffff#64 = 8 ∧ lengthClass 0x100000000000000#64 = 9 := by decide

theorem witness_EncodingIsPrefixFree : encodeBytes 0x2010#64 <+: encodeBytes 0x2010#64 :=
  List.prefix_refl _

/-- `80 7f` and `ff 00 ff ff ff ff ff ff ff` (95_test_vectors.md 4). -/
theorem witness_NonMinimalIsNeverProduced :
    (2 ≤ 2 ∧ 0x7f < 2 ^ (7 * (2 - 1)) ∧ bytesBE 2 (formWord 2 0x7f) = [0x80#8, 0x7f]) ∧
    (9 ≤ 9 ∧ 2 ^ 56 - 1 < 2 ^ (7 * (9 - 1)) ∧
      bytesBE 9 (formWord 9 (2 ^ 56 - 1)) =
        [0xff#8, 0x00, 0xff, 0xff, 0xff, 0xff, 0xff, 0xff, 0xff]) := by decide

theorem witness_EncodeOfDecode :
    ∃ bytes i, decode (.form bytes) = .ok i ∧ encode i = .form bytes :=
  ⟨[0xa0#8, 0x10#8], .enc2 0x2010#14, rfl, rfl⟩

theorem witness_FormItemIsTheSequenceSent :
    (∀ x, Instr.enc2 0x2010#14 ≠ .encode x) ∧ (Instr.enc2 0x2010#14).wellFormed = true :=
  ⟨fun _ h => Instr.noConfusion h, by decide⟩

theorem witness_EncodeIsAccepted :
    State.reset.ph = .idle ∧ (sending 0x2010#64 0#4 []).ph ≠ .idle := by decide

theorem witness_FormsAreAccepted :
    State.reset.ph = .idle ∧
    (Instr.enc1 0x7f#7).wellFormed = true ∧ (Instr.enc2 0x80#14).wellFormed = true ∧
    (Instr.enc3 0x4000#21).wellFormed = true ∧ (Instr.enc4 0x200000#28).wellFormed = true ∧
    (Instr.enc5 0x10000000#35).wellFormed = true ∧ (Instr.enc6 0x800000000#42).wellFormed = true ∧
    (Instr.enc7 0x40000000000#49).wellFormed = true ∧
    (Instr.enc8 0x2000000000000#56).wellFormed = true ∧
    (Instr.enc9 0x100000000000000#64).wellFormed = true := by decide

theorem witness_FormOfAnotherClassRuns :
    State.reset.ph = .idle ∧ (Instr.enc2 0x7f#14).wellFormed = false ∧
    (Instr.enc9 0xffffffffffffff#64).wellFormed = false := by decide

theorem witness_FormsWaitOutsideIdle : (responding 0x2010#64 []).ph ≠ .idle := by decide

theorem witness_EncodeDispatchesToItsForm : (Instr.enc2 0x2010#14).wellFormed = true := by decide

theorem witness_StepRunsTheDecodedInstruction :
    ∃ (s s' : State) (e : Edge), s.ph = .idle ∧ s.inputs = [e] ∧ e.rst = false ∧ s.slot = none ∧
      e.reqValid = true ∧ holds s e = false ∧ decode (.request e.reqX) = .ok (.encode 0x2010#64) ∧
      s'.ph = .idle ∧ s'.inputs = [e] ∧ s'.slot = some (.enc2 0x2010#14) :=
  ⟨{ State.reset with inputs := [Edge.request 0x2010#64] },
    { State.reset with inputs := [Edge.request 0x2010#64], slot := some (.enc2 0x2010#14) },
    Edge.request 0x2010#64, rfl, rfl, rfl, rfl, rfl, rfl, rfl, rfl, rfl, rfl⟩

theorem witness_PlacedWordRunsNext :
    decodeTableWord 16 0x10a0 = some (.enc2 0x2010#14) ∧
    decodeTableWord 64 0x2010 = some (.encode 0x2010#64) := by decide

theorem witness_OnlyTheByteAtIndexIsOffered :
    ∃ (s : State) (b : Byte), (outputs s Edge.quiet).byteValid = true ∧
      s.buf[s.idx.toNat]? = some b := ⟨sending 0x2010#64 1#4 [], 0x10, rfl, by decide⟩

theorem witness_AcceptedByteEntersTheSink :
    ∃ (s : State) (e : Edge) (b b' : Byte), s.inputs = [e] ∧ e.rst = false ∧ s.ph = .send ∧
      (s.raised = true ∨ holds s e = false) ∧ e.byteReady = true ∧ e.byteFail = false ∧
      s.buf[s.idx.toNat]? = some b ∧ s.idx.toNat + 1 < s.n.toNat ∧
      s.buf[s.idx.toNat + 1]? = some b' :=
  ⟨sending 0x2010#64 0#4 [Edge.accept], Edge.accept, 0xa0, 0x10, rfl, rfl, rfl, .inr rfl, rfl, rfl,
    by decide, by decide, by decide⟩

/-- The last byte of ENC9, at the end of BUF; the state also meets the invariant and
the account. -/
theorem witness_LastAcceptedByteEndsTheOperation :
    ∃ (s : State) (e : Edge) (b : Byte), s.inputs = [e] ∧ e.rst = false ∧ s.ph = .send ∧
      (s.raised = true ∨ holds s e = false) ∧ e.byteReady = true ∧ e.byteFail = false ∧
      s.buf[s.idx.toNat]? = some b ∧ s.idx.toNat + 1 = s.n.toNat ∧ s.Inv ∧ s.Accounted [] :=
  ⟨sending 0xffffffffffffffff#64 8#4 [Edge.accept], Edge.accept, 0xff, rfl, rfl, rfl, .inr rfl,
    rfl, rfl, by decide, by decide,
    ⟨by decide, by decide, fun _ => ⟨by decide, rfl, by decide, by decide⟩, (fun h => nomatch h),
      (fun h => nomatch h), (fun h => nomatch h), rfl⟩,
    show _ = _ by decide⟩

theorem witness_FailedByteEndsTheOperation (f : SinkFault) :
    ∃ (s : State) (e : Edge), s.inputs = [e] ∧ e.rst = false ∧ s.ph = .send ∧
      (s.raised = true ∨ holds s e = false) ∧ e.byteFail = true ∧ e.byteFault = f :=
  ⟨sending 0x7f#64 0#4 [Edge.fail f], Edge.fail f, rfl, rfl, rfl, .inr rfl, rfl, rfl⟩

theorem witness_ResponseCarriesTheOutcome :
    ∃ (s : State) (e : Edge), s.inputs = [e] ∧ e.rst = false ∧ s.ph = .resp ∧
      (s.raised = true ∨ holds s e = false) ∧ e.rspReady = true ∧ s.slot = none :=
  ⟨responding 0x2010#64 [Edge.take], Edge.take, rfl, rfl, rfl, .inr rfl, rfl, rfl⟩

theorem witness_ResetAbandonsTheOperation :
    (∃ (s : State) (e : Edge), s.inputs = [e] ∧ e.rst = true ∧ s.ph = .idle) ∧
    (∃ (s : State) (e : Edge), s.inputs = [e] ∧ e.rst = true ∧ s.ph ≠ .idle) :=
  ⟨⟨{ State.reset with inputs := [Edge.reset] }, Edge.reset, rfl, rfl, rfl⟩,
    ⟨sending 0x2010#64 1#4 [Edge.reset], Edge.reset, rfl, rfl, by decide⟩⟩

theorem witness_NothingChangesWithoutATransfer :
    ∃ (s : State) (e : Edge), s.inputs = [e] ∧ e.rst = false ∧ s.slot = none ∧
      (e.reqValid && (outputs s e).reqReady) = false ∧
      ((outputs s e).byteValid && (e.byteReady || e.byteFail)) = false ∧
      ((outputs s e).rspValid && e.rspReady) = false :=
  ⟨sending 0x2010#64 0#4 [Edge.request 5#64], Edge.request 5#64, rfl, rfl, rfl, rfl, rfl, rfl⟩

theorem witness_RaisedValidStaysRaised :
    (∃ (s t : State) (e : Edge), s.inputs = [e] ∧ e.rst = false ∧ step s = .next t ∧
      (outputs s e).byteValid = true ∧ e.byteReady = false ∧ e.byteFail = false) ∧
    (∃ (s t : State) (e : Edge), s.inputs = [e] ∧ e.rst = false ∧ step s = .next t ∧
      (outputs s e).rspValid = true ∧ e.rspReady = false) :=
  ⟨⟨sending 0x2010#64 0#4 [Edge.quiet], _, Edge.quiet, rfl, rfl, rfl, rfl, rfl, rfl⟩,
    ⟨responding 0x2010#64 [Edge.quiet], _, Edge.quiet, rfl, rfl, rfl, rfl, rfl⟩⟩

theorem witness_AtMostOneHandshakeIsOpen :
    (outputs State.reset Edge.quiet).reqReady = true ∧
    (outputs (sending 0x2010#64 0#4 []) Edge.quiet).byteValid = true := ⟨rfl, rfl⟩

/-- The hypotheses of PhaseMovesOnlyAsListed at a reset edge and in each phase without one. -/
theorem witness_PhaseMovesOnlyAsListed :
    (∃ s t e, s.inputs = [e] ∧ s.slot = none ∧ step s = .next t ∧ e.rst = true) ∧
    (∃ s t e, s.inputs = [e] ∧ s.slot = none ∧ step s = .next t ∧ e.rst = false ∧ s.ph = .idle) ∧
    (∃ s t e, s.inputs = [e] ∧ s.slot = none ∧ step s = .next t ∧ e.rst = false ∧ s.ph = .send) ∧
    (∃ s t e, s.inputs = [e] ∧ s.slot = none ∧ step s = .next t ∧ e.rst = false ∧ s.ph = .resp) :=
  ⟨⟨sending 0x2010#64 1#4 [Edge.reset], _, Edge.reset, rfl, rfl, rfl, rfl⟩,
    ⟨{ State.reset with inputs := [Edge.request 5#64] }, _, Edge.request 5#64, rfl, rfl, rfl, rfl,
      rfl⟩,
    ⟨sending 0x2010#64 1#4 [Edge.accept], _, Edge.accept, rfl, rfl, rfl, rfl, rfl⟩,
    ⟨responding 0x2010#64 [Edge.take], _, Edge.take, rfl, rfl, rfl, rfl, rfl⟩⟩

theorem witness_SinkIsAppendOnly :
    ∃ t, step (sending 0x2010#64 0#4 [Edge.accept]) = .next t ∧ t.sink = [0xa0] := ⟨_, rfl, by decide⟩

theorem witness_NothingReadsTheSinkOrThePast :
    ∃ t, step (sending 0x2010#64 1#4 [Edge.accept]) = .next t := ⟨_, rfl⟩

/-- The hypotheses of the three statements about what a step keeps: a state in SEND with
IDX = 1 that meets the invariant and the account, its history truthful, and its next state. -/
theorem witness_step_keeps :
    ∃ s t : State, s.Inv ∧ s.Accounted [] ∧ (∀ h ∈ s.history, h.truthful) ∧ step s = .next t :=
  ⟨sending 0x2010#64 1#4 [Edge.accept], _,
    ⟨by decide, by decide, fun _ => ⟨by decide, rfl, by decide, by decide⟩, (fun h => nomatch h),
      (fun h => nomatch h), (fun h => nomatch h), rfl⟩,
    show _ = _ by decide, (fun _ hm => nomatch hm), rfl⟩

theorem witness_StepKeepsTheInvariant : ∃ s t : State, s.Inv ∧ step s = .next t :=
  let ⟨s, t, hi, _, _, h⟩ := witness_step_keeps
  ⟨s, t, hi, h⟩

theorem witness_StepKeepsTheAccountOfTheSink :
    ∃ s t : State, s.Inv ∧ s.Accounted [] ∧ step s = .next t :=
  let ⟨s, t, hi, ha, _, h⟩ := witness_step_keeps
  ⟨s, t, hi, ha, h⟩

theorem witness_StepKeepsResponsesTruthful :
    ∃ s t : State, s.Inv ∧ (∀ h ∈ s.history, h.truthful) ∧ step s = .next t :=
  let ⟨s, t, hi, _, ht, h⟩ := witness_step_keeps
  ⟨s, t, hi, ht, h⟩

theorem witness_EncodeDeliversTheWholeSequence :
    ∃ (x : Operand) (s : State) (rest : List Edge), s.ph = .idle ∧ s.slot = none ∧
      s.inputs = Edge.request x ::
        (List.replicate (lengthClass x) Edge.accept ++ Edge.take :: rest) :=
  ⟨0x2010#64, { State.reset with
    inputs := [Edge.request 0x2010#64, Edge.accept, Edge.accept, Edge.take] }, [], rfl, rfl, rfl⟩

theorem witness_EncodeReportsTheSinkFailure (f : SinkFault) :
    ∃ (x : Operand) (i : Nat) (s : State) (rest : List Edge), s.ph = .idle ∧ s.slot = none ∧
      i < lengthClass x ∧
      s.inputs = Edge.request x ::
        (List.replicate i Edge.accept ++ Edge.fail f :: Edge.take :: rest) :=
  ⟨0x200000#64, 2, { State.reset with
    inputs := [Edge.request 0x200000#64, Edge.accept, Edge.accept, Edge.fail f, Edge.take] }, [],
    rfl, rfl, by decide, rfl⟩

theorem witness_ResetMidwayLeavesTheBytesInTheSink :
    ∃ (x : Operand) (i : Nat) (s : State) (rest : List Edge), s.ph = .idle ∧ s.slot = none ∧
      i ≤ lengthClass x ∧
      s.inputs = Edge.request x :: (List.replicate i Edge.accept ++ Edge.reset :: rest) :=
  ⟨0x2010#64, 2, { State.reset with
    inputs := [Edge.request 0x2010#64, Edge.accept, Edge.accept, Edge.reset] }, [],
    rfl, rfl, by decide, rfl⟩

theorem witness_UnansweredByteWaitsForEver :
    ∃ s : State, s.ph = .send ∧ s.inputs = [Edge.request 5#64] ∧
      ∀ e ∈ s.inputs, e.rst = false ∧ e.byteReady = false ∧ e.byteFail = false :=
  ⟨sending 0x2010#64 1#4 [Edge.request 5#64], rfl, rfl, fun e h => by
    cases List.mem_singleton.1 h; exact ⟨rfl, rfl, rfl⟩⟩

/-- A byte that ENC would hold back for ever and nobody answers, and a response likewise. -/
theorem witness_OfferComesAndStays :
    ∃ (s s' : State) (es : Nat → Edge), (∀ k, (es k).rst = false) ∧ s.patience = 2 ∧ s.ph = .send ∧
      (∀ k, (es k).hold = true ∧ (es k).byteReady = false ∧ (es k).byteFail = false) ∧
      s'.ph = .resp ∧ (∀ k, (es k).rspReady = false) :=
  ⟨{ sending 0x2010#64 0#4 [] with patience := 2 }, responding 0x2010#64 [],
    fun _ => { Edge.quiet with hold := true },
    fun _ => rfl, rfl, rfl, fun _ => ⟨rfl, rfl, rfl⟩, rfl, fun _ => rfl⟩

theorem witness_OfferedOperandIsAccepted :
    ∃ (s : State) (es : Nat → Edge), s.ph = .idle ∧ s.slot = none ∧ s.patience = 2 ∧
      ∀ k, (es k).rst = false ∧ (es k).reqValid = true ∧ (es k).reqX = 0x2010#64 :=
  ⟨{ State.reset with patience := 2 }, fun _ => { Edge.request 0x2010#64 with hold := true },
    rfl, rfl, rfl, fun _ => ⟨rfl, rfl, rfl⟩⟩

/-- Agents that answer and take at every edge, and an ENC that is asked to hold back at every edge. -/
theorem witness_EveryAcceptedOperationEnds :
    ∃ (s : State) (es : Nat → Edge), s.Inv ∧ s.ph ≠ .idle ∧ s.AgentsAnswer es ∧
      ∀ k, (es k).hold = true :=
  ⟨sending 0x2010#64 1#4 [],
    fun _ => { Edge.quiet with byteReady := true, rspReady := true, hold := true },
    ⟨by decide, by decide, fun _ => ⟨by decide, rfl, by decide, by decide⟩, (fun h => nomatch h),
      (fun h => nomatch h), (fun h => nomatch h), rfl⟩,
    by decide,
    ⟨fun _ => rfl, fun k _ _ _ => ⟨k, le_refl k, .inl rfl⟩, fun k _ _ _ => ⟨k, le_refl k, rfl⟩⟩,
    fun _ => rfl⟩

theorem witness_InstancesShareNothing :
    ∃ h', Shared.stepOf 1 ⟨[State.reset, sending 0x80#64 0#4 [Edge.accept]], []⟩ = .next h' ∧ 0 ≠ 1 :=
  ⟨_, rfl, by decide⟩

theorem witness_SharedSinkKeepsEachStream :
    ∃ (s0 : Nat → List Byte) (h : Shared),
      (∀ j s, h.encs[j]? = some s → s.sink = s0 j ++ h.bytesOf j) ∧ h.encs ≠ [] ∧
      ∃ h', h.stepOf 0 = .next h' :=
  ⟨fun _ => [], ⟨[sending 0x80#64 0#4 [Edge.accept]], []⟩,
    (fun j s hs => by
      rcases j with _ | j
      · cases hs; rfl
      · cases hs),
    by decide, _, rfl⟩

end Sys2Proof.Tests
end

section
/-! SUPPORT. The derived level `busy`, by phase, and the obligation that says it of the output port. -/

namespace Sys2Proof.Machine

@[simp] theorem outputs_busy (s : State) (e : Edge) : (outputs s e).busy = busy s := rfl

/-- R27, of the level itself: the phase decides it. -/
theorem busy_iff (s : State) : busy s = true ↔ s.ph = .send ∨ s.ph = .resp := by
  unfold busy
  cases s.ph with
  | idle => simp
  | send => simp
  | resp => simp

/-- Settles O38: the port carries the level `busy`, which R27 gives phase by phase. -/
theorem busyInSendAndResp : Obligations.BusyInSendAndResp := by
  intro s e
  rw [outputs_busy]
  exact busy_iff s

end Sys2Proof.Machine
end

section
/-! SUPPORT. class(x) against one power of two, and from it the two obligations of
spec/40_classify.md that say where class(x) changes (R82, R88). -/

namespace Sys2Proof.Machine

/-- The test of R82 decides the order of class(x): each of the nine ranges of x lies wholly below
2^(7n) or wholly from it on. At n = 9 this ends, since class 9 carries 64 bits and not 63. -/
theorem lengthClass_le_iff (x : Operand) {n : Nat} (h1 : 1 ≤ n) (h8 : n ≤ 8) :
    lengthClass x ≤ n ↔ x.toNat < 2 ^ (7 * n) := by
  have ranges := lengthClass_cases x
  interval_cases n
  all_goals omega

/-- An operand that fails the test for n is of a later class. -/
theorem lt_lengthClass_iff (x : Operand) {n : Nat} (h1 : 1 ≤ n) (h8 : n ≤ 8) :
    n < lengthClass x ↔ 2 ^ (7 * n) ≤ x.toNat := by
  rw [← Nat.not_le, lengthClass_le_iff x h1 h8, Nat.not_lt]

/-- The comparison with T(n) in place of the one with 2^(7n) (R81, R82). -/
theorem le_threshold_iff (v n : Nat) : v ≤ threshold n ↔ v < 2 ^ (7 * n) :=
  (Nat.lt_iff_le_pred (Nat.two_pow_pos (7 * n))).symm

/-- Settles O1: the order of class(x) and n, read off at n = 8, at class(x) itself and at every
smaller m. -/
theorem classIsSmallestFittingLength : Obligations.ClassIsSmallestFittingLength := by
  intro x
  have hpos := lengthClass_pos x
  refine ⟨fun hx => ?packed, fun hx => ?full, encodeBytes_length_eq x,
    fun n _ _ => (le_threshold_iff x.toNat n).symm⟩
  case packed =>
    have h8 : lengthClass x ≤ 8 := (lengthClass_le_iff x (by decide) le_rfl).2 hx
    exact ⟨hpos, h8, (lengthClass_le_iff x hpos h8).1 le_rfl,
      fun m h1 hm => (lt_lengthClass_iff x h1 (by omega)).1 hm⟩
  case full =>
    have h8 : 8 < lengthClass x := (lt_lengthClass_iff x (by decide) le_rfl).2 hx
    exact le_antisymm (lengthClass_le x) h8

/-- The last operand below a boundary, 2^(7n) - 1, is of class n; at n = 1 the lower bound is that
there is no class below 1. -/
theorem lengthClass_of_last {x : Operand} {n : Nat} (h1 : 1 ≤ n) (h8 : n ≤ 8)
    (hx : x.toNat + 1 = 2 ^ (7 * n)) : lengthClass x = n := by
  have hle : lengthClass x ≤ n := (lengthClass_le_iff x h1 h8).2 (by omega)
  have hgt : n - 1 < lengthClass x := by
    rcases h1.eq_or_lt with rfl | hn
    · exact lengthClass_pos x
    · have hpow : 2 ^ (7 * (n - 1)) < 2 ^ (7 * n) := Nat.pow_lt_pow_right (by decide) (by omega)
      exact (lt_lengthClass_iff x (by omega) (by omega)).2 (by omega)
  omega

/-- The first operand from a boundary on, 2^(7n), is of class n + 1; past n = 8 the bound is that
there is no class above 9. -/
theorem lengthClass_of_first {x : Operand} {n : Nat} (h1 : 1 ≤ n) (h8 : n ≤ 8)
    (hx : x.toNat = 2 ^ (7 * n)) : lengthClass x = n + 1 := by
  have hgt : n < lengthClass x := (lt_lengthClass_iff x h1 h8).2 hx.ge
  have hle : lengthClass x ≤ n + 1 := by
    rcases h8.eq_or_lt with rfl | hn
    · exact lengthClass_le x
    · refine (lengthClass_le_iff x (by omega) (by omega)).2 ?_
      rw [hx]
      exact Nat.pow_lt_pow_right (by decide) (by omega)
  exact le_antisymm hle hgt

/-- Settles O5: the operands on the two sides of a boundary, whose numbers fit in 64 bits. -/
theorem boundaryValuesChangeClass : Obligations.BoundaryValuesChangeClass := by
  intro n h1 h8
  have hfit : 2 ^ (7 * n) < 2 ^ 64 := Nat.pow_lt_pow_right (by decide) (by omega)
  have hpos : 0 < 2 ^ (7 * n) := Nat.two_pow_pos (7 * n)
  have hlast : lengthClass (BitVec.ofNat 64 (2 ^ (7 * n) - 1)) = n := by
    apply lengthClass_of_last h1 h8
    rw [BitVec.toNat_ofNat, Nat.mod_eq_of_lt (by omega)]
    omega
  have hfirst : lengthClass (BitVec.ofNat 64 (2 ^ (7 * n))) = n + 1 := by
    apply lengthClass_of_first h1 h8
    rw [BitVec.toNat_ofNat, Nat.mod_eq_of_lt hfit]
  exact ⟨hlast, (encodeBytes_length_eq _).trans hlast,
    hfirst, (encodeBytes_length_eq _).trans hfirst⟩

end Sys2Proof.Machine
end

section
/-! SUPPORT. BLD over the whole number x: the masks, the marker, the payload and encode(x) said of
`x.toNat`, and from them the two obligations of spec/41_build.md that write the sequence out (R100
to R108, R111). -/

namespace Sys2Proof.Machine

/-- A payload byte from the whole number x: its low eight bits after the shift (R99). -/
theorem byteOf_eq_ofNat (x : Operand) (k : Nat) :
    byteOf x k = BitVec.ofNat 8 (x.toNat >>> (8 * k)) := by
  apply BitVec.eq_of_toNat_eq
  rw [byteOf_toNat, BitVec.toNat_ofNat, Nat.shiftRight_eq_div_pow]

/-- The payload counts down from k = m - 1 to 0 (R99, R111). -/
theorem bytesDown_eq_map (x : Operand) (m : Nat) :
    bytesDown x m =
      (List.range m).reverse.map (fun k => BitVec.ofNat 8 (x.toNat >>> (8 * k))) := by
  induction m with
  | zero => rfl
  | succ k ih => simp [bytesDown, ih, byteOf_eq_ofNat, List.range_succ]

/-- R95 over whole numbers: the `& 0xff` of the rule is the cut to a byte. -/
theorem prefixMask_eq_ofNat (n : Nat) : prefixMask n = BitVec.ofNat 8 (0xff <<< (9 - n)) := rfl

/-- R96 over whole numbers; the subtraction does not borrow, since 1 << (8 - n) is not 0. -/
theorem dataMask_eq_ofNat (n : Nat) : dataMask n = BitVec.ofNat 8 ((1 <<< (8 - n)) - 1) := by
  have hpos : 1 ≤ 1 <<< (8 - n) := by
    rw [Nat.one_shiftLeft]
    exact Nat.two_pow_pos (8 - n)
  have hshift : 1#8 <<< (8 - n) = BitVec.ofNat 8 (1 <<< (8 - n)) := rfl
  rw [dataMask, hshift, BitVec.ofNat_sub_ofNat_of_le _ _ (by decide) hpos]

/-- The marker of R97 over whole numbers. -/
theorem marker_eq_ofNat (x : Operand) (n : Nat) :
    marker x n =
      BitVec.ofNat 8 (0xff <<< (9 - n)) |||
        BitVec.ofNat 8 ((x.toNat >>> (8 * (n - 1))) &&& ((1 <<< (8 - n)) - 1)) := by
  rw [marker_eq, prefixMask_eq_ofNat, dataMask_eq_ofNat, byteOf_eq_ofNat, BitVec.ofNat_and]

/-- encode(x) in a packed class, for the class by its number (R97, R99). -/
theorem encodeBytes_of_packed {x : Operand} {n : Nat} (hn : lengthClass x = n) (h8 : n ≤ 8) :
    encodeBytes x =
      (prefixMask n ||| (byteOf x (n - 1) &&& dataMask n)) :: bytesDown x (n - 1) := by
  have h9 : ¬ lengthClass x = 9 := by omega
  rw [encodeBytes, if_neg h9, hn, marker_eq]

/-- encode(x) in the escape class (R108). -/
theorem encodeBytes_of_escape {x : Operand} (h9 : lengthClass x = 9) :
    encodeBytes x = 0xff#8 :: bytesDown x 8 := if_pos h9

/-- The marker of class 8 has no data bits (R96, R107). -/
theorem encodeBytes_of_class_eight {x : Operand} (hn : lengthClass x = 8) :
    encodeBytes x = 0xfe#8 :: bytesDown x 7 := by
  have hmask : dataMask 8 = 0#8 := by decide
  have hones : prefixMask 8 = 0xfe#8 := by decide
  rw [encodeBytes_of_packed hn le_rfl, hmask, hones, BitVec.and_zero, BitVec.or_zero]

/-- In class 1 no marker bit is set and the mask removes nothing, so the one byte is x (R98, R100). -/
theorem encodeBytes_of_class_one {x : Operand} (hn : lengthClass x = 1) (hx : x.toNat < 2 ^ 7) :
    encodeBytes x = [BitVec.ofNat 8 x.toNat] := by
  have hdata : x.toNat &&& (2 ^ 7 - 1) = x.toNat := by
    rw [Nat.and_two_pow_sub_one_eq_mod, Nat.mod_eq_of_lt hx]
  have hmarker : marker x 1 = 0#8 ||| BitVec.ofNat 8 (x.toNat &&& (2 ^ 7 - 1)) :=
    marker_eq_ofNat x 1
  rw [encodeBytes_of_packed hn (by decide), ← marker_eq, hmarker, hdata, BitVec.zero_or]
  rfl

/-- The switch of R112 has for each packed class its marker and payload: R100 to R107 are R97 and
R99 with the masks of that class put in. -/
theorem formBytes_of_packed (x : Operand) {n : Nat} (h1 : 1 ≤ n) (h8 : n ≤ 8) :
    formBytes n x = some (marker x n :: bytesDown x (n - 1)) := by
  interval_cases n
  all_goals rfl

/-- The form of class(x) is encode(x) (R111, R112). -/
theorem formBytes_lengthClass (x : Operand) :
    formBytes (lengthClass x) x = some (encodeBytes x) := by
  rcases (lengthClass_le x).eq_or_lt with h9 | hlt
  · rw [encodeBytes_of_escape h9, h9]
    rfl
  · have h8 : lengthClass x ≤ 8 := Nat.le_of_lt_succ hlt
    rw [formBytes_of_packed x (lengthClass_pos x) h8, encodeBytes_of_packed rfl h8, marker_eq]

/-- Settles O8: marker and payload over whole numbers, in the escape class and in a packed one. -/
theorem encodeIsMarkerThenPayload : Obligations.EncodeIsMarkerThenPayload := by
  intro x
  refine ⟨?_, encodeBytes_length_eq x, formBytes_lengthClass x⟩
  split
  case isTrue h9 => rw [encodeBytes_of_escape h9, bytesDown_eq_map]; rfl
  case isFalse h9 => rw [encodeBytes, if_neg h9, marker_eq_ofNat, bytesDown_eq_map]

/-- Settles O9: each range is a class (R86), and the masks of that class are the constants its rule
writes. -/
theorem formsHaveTheirPseudocode : Obligations.FormsHaveTheirPseudocode := by
  intro x b hb
  obtain rfl : b = byteOf x := funext fun k => (hb k).trans (byteOf_eq_ofNat x k).symm
  have ranges := lengthClass_cases x
  exact ⟨
    fun hi => encodeBytes_of_class_one (by omega) (by omega),
    fun lo hi => encodeBytes_of_packed (n := 2) (by omega) (by decide),
    fun lo hi => encodeBytes_of_packed (n := 3) (by omega) (by decide),
    fun lo hi => encodeBytes_of_packed (n := 4) (by omega) (by decide),
    fun lo hi => encodeBytes_of_packed (n := 5) (by omega) (by decide),
    fun lo hi => encodeBytes_of_packed (n := 6) (by omega) (by decide),
    fun lo hi => encodeBytes_of_packed (n := 7) (by omega) (by decide),
    fun lo hi => encodeBytes_of_class_eight (by omega),
    fun lo => encodeBytes_of_escape (by omega)⟩

end Sys2Proof.Machine
end

section
/-! SUPPORT. ACCEPT as the postcondition of R122, for any operand, length and bytes, and the
obligation that says it of ENCODE. -/

namespace Sys2Proof.Machine

/-- ACCEPT meets R122 for every sequence that fits BUF: N holds its length, which four bits carry,
and BUF begins with it. -/
theorem accept_acceptedAs (x : Operand) {m : Nat} {bytes : List Byte} (s : State)
    (hlen : bytes.length = m) (h9 : m ≤ 9) : AcceptedAs x m bytes s (accept x m bytes s) where
  n := by rw [accept_n, BitVec.toNat_ofNat, Nat.mod_eq_of_lt (by omega)]
  buf := by
    subst hlen
    exact loadBuf_take bytes _ h9
  idx := rfl
  err := rfl
  ph := rfl
  operand := rfl
  raised := rfl
  fv := rfl
  sink := rfl
  history := rfl
  inputs := rfl
  slot := rfl

/-- Outside IDLE no operand is taken (R29). -/
theorem reqReady_of_not_idle {s : State} (e : Edge) (h : s.ph ≠ .idle) : reqReady s e = false := by
  simp [reqReady, h]

/-- Settles O22: ENCODE is `acceptIfIdle`, which in IDLE is ACCEPT of encode(x), never longer than
BUF, and elsewhere waits. -/
theorem encodeIsAccepted : Obligations.EncodeIsAccepted := by
  intro x s
  have hexec : exec (.encode x) s =
      .next (acceptIfIdle x (lengthClass x) (encodeBytes x) s) := exec_eq (.encode x) s
  rw [hexec]
  refine ⟨fun hidle => ?idle, fun hbusy => ?busy⟩
  case idle =>
    rw [acceptIfIdle_idle _ _ _ _ hidle]
    exact ⟨_, rfl, accept_acceptedAs x s (encodeBytes_length_eq x) (lengthClass_le x)⟩
  case busy =>
    rw [acceptIfIdle_busy _ _ _ _ hbusy]
    exact ⟨rfl, fun e => reqReady_of_not_idle e hbusy⟩

end Sys2Proof.Machine
end

section
/-! SUPPORT. EMIT-accepted at an edge of the schedule: when the step is one, the byte it moves, and
the two obligations of R124 and R125 about what it leaves. -/

namespace Sys2Proof.Machine

theorem edge_of_inputs {s : State} {e : Edge} {rest : List Edge} (h : s.inputs = e :: rest) :
    edge s = e := by
  rw [edge, h, List.headD_cons]

/-- R31 (a), (c): in SEND `byte_valid` is up unless it is held back before it was first raised. -/
theorem byteValid_of_send {s : State} {e : Edge} (hph : s.ph = .send)
    (hup : s.raised = true ∨ holds s e = false) : byteValid s e = true := by
  rcases hup with hraised | hfree
  · simp [byteValid, hph, hraised]
  · simp [byteValid, hph, hfree]

/-- The byte on offer, for an IDX inside BUF (R123). -/
theorem offeredByte_eq {s : State} {b : Byte} (h : s.buf[s.idx.toNat]? = some b) :
    offeredByte s = b := by
  simp [offeredByte, bufAt, Vector.getD, h]

/-- While `byte_valid` is up, `byte_data` is the byte on offer (R123). -/
theorem outputs_byteData {s : State} {e : Edge} (h : byteValid s e = true) :
    (outputs s e).byteData = offeredByte s := if_pos h

/-- IDX advances without wrapping: it has four bits and stays within N (R24). -/
theorem toNat_idx_succ {idx n : Nibble} (h : idx.toNat + 1 ≤ n.toNat) :
    (idx + 1#4).toNat = idx.toNat + 1 := by
  bv_omega

/-- The step is EMIT-accepted when the offered byte is accepted and does not fail (R30, R148). -/
theorem step_eq_emitAccepted {s : State} {e : Edge} {rest : List Edge} (hin : s.inputs = e :: rest)
    (hrst : e.rst = false) (hph : s.ph = .send) (hup : s.raised = true ∨ holds s e = false)
    (hready : e.byteReady = true) (hfail : e.byteFail = false) :
    step s = .next (emitAccepted (passEdge s)) := by
  have hvalid : byteValid s e = true := byteValid_of_send hph hup
  have htransfer : transfer s e = .byteAccepted := by
    simp [transfer, hrst, hph, hvalid, hready, hfail]
  rw [step, edge_of_inputs hin, htransfer]

/-- EMIT-accepted past the edge it happens at, element by element (R124, R125). -/
theorem emitAccepted_passEdge_eq {s : State} {e : Edge} {rest : List Edge} {b : Byte}
    (hin : s.inputs = e :: rest) (hbyte : s.buf[s.idx.toNat]? = some b) :
    emitAccepted (passEdge s) =
      { s with
        sink := s.sink ++ [b], idx := s.idx + 1#4, ph := if lastByte s then .resp else .send,
        raised := false, inputs := rest, patience := Config.freePatience s.fresh,
        fresh := s.fresh + 1 } := by
  obtain rfl : rest = s.inputs.tail := by rw [hin, List.tail_cons]
  obtain rfl : b = offeredByte s := (offeredByte_eq hbyte).symm
  rfl

/-- In SEND the accepted bytes and the last one on offer are together the whole sequence:
BUF[0..IDX-1] and BUF[IDX] with IDX + 1 = N (R33 (e), R125). -/
theorem inFlight_append_last {s : State} {b : Byte} (hph : s.ph = .send) (hseq : s.holdsSequence)
    (hbyte : s.buf[s.idx.toNat]? = some b) (hlast : s.idx.toNat + 1 = s.n.toNat) :
    s.inFlight ++ [b] = encodeBytes s.operand := by
  obtain ⟨-, hbuf⟩ := hseq
  have hget : s.buf.toList[s.idx.toNat]? = some b := by
    rw [Vector.getElem?_toList, hbyte]
  calc s.inFlight ++ [b]
      = s.buf.toList.take s.idx.toNat ++ s.buf.toList[s.idx.toNat]?.toList := by
        simp [State.inFlight, hph, hget]
    _ = s.buf.toList.take s.n.toNat := by rw [← List.take_add_one, hlast]
    _ = encodeBytes s.operand := hbuf

/-- Settles O31: the step is EMIT-accepted with IDX + 1 = N; by the invariant BUF holds encode(x),
and by the account S already ends in its bytes before the last. -/
theorem lastAcceptedByteEndsTheOperation : Obligations.LastAcceptedByteEndsTheOperation := by
  intro s e rest b hin hrst hph hup hready hfail hbyte hlast
  refine ⟨⟨_, step_eq_emitAccepted hin hrst hph hup hready hfail, ?_⟩, fun s0 hinv hacc => ?_⟩
  · have hlastByte : lastByte s = true := beq_iff_eq.2 hlast
    have hidx : s.idx + 1#4 = s.n := BitVec.eq_of_toNat_eq ((toNat_idx_succ hlast.le).trans hlast)
    rw [emitAccepted_passEdge_eq hin hbyte, hlastByte, hidx]
    rfl
  · obtain ⟨-, herr, hseq⟩ := hinv.send hph
    refine ⟨herr, ?_⟩
    rw [hacc, List.append_assoc, inFlight_append_last hph hseq hbyte hlast]

/-- Settles O30: the step is EMIT-accepted with IDX + 1 < N, so PH stays SEND and the next offer is
BUF at the advanced IDX. -/
theorem acceptedByteEntersTheSink : Obligations.AcceptedByteEntersTheSink := by
  intro s e rest b hin hrst hph hup hready hfail hbyte hnext
  have hmore : lastByte s = false := beq_eq_false_iff_ne.2 hnext.ne
  refine ⟨_, step_eq_emitAccepted hin hrst hph hup hready hfail, ?_, fun b' e' hbyte' hfree => ?_⟩
  · rw [emitAccepted_passEdge_eq hin hbyte, hmore, ← hph]
    rfl
  · have hsend : (emitAccepted (passEdge s)).ph = .send := by simp [hmore]
    have hvalid := byteValid_of_send hsend (.inr hfree)
    have hoffer : offeredByte (emitAccepted (passEdge s)) = b' := by
      apply offeredByte_eq
      simpa [toNat_idx_succ hnext.le] using hbyte'
    exact ⟨hvalid, (outputs_byteData hvalid).trans hoffer⟩

end Sys2Proof.Machine
end

section
/-! SUPPORT. The two other ways to find class(x), and its closed ranges: the obligations of
spec/40_classify.md that compare them with the definition (R84 to R86). -/

namespace Sys2Proof.Machine

/-- The cascade from n with `fuel` tests left is the search of R82 over those tests. -/
theorem cascadeFrom_eq_find (x : Operand) (fuel n : Nat) :
    cascadeFrom x fuel n = ((List.range' n fuel).find? (fits x)).getD (n + fuel) := by
  induction fuel generalizing n with
  | zero => rfl
  | succ fuel ih =>
    rw [cascadeFrom, List.range'_succ, List.find?_cons]
    cases fits x n with
    | true => rfl
    | false =>
      have hend : n + 1 + fuel = n + (fuel + 1) := by omega
      rw [if_neg Bool.false_ne_true, ih, hend]

/-- Settles O2: the eight tests from n = 1 are the search of R82, and past them stands 9. -/
theorem cascadeComputesClass : Obligations.CascadeComputesClass :=
  fun x => cascadeFrom_eq_find x Config.packedMax 1

/-- A search from n - 1 downward finds the last index below n with the property. -/
theorem find_reverse_range_eq_some {p : Nat → Bool} {n k : Nat}
    (h : (List.range n).reverse.find? p = some k) :
    p k = true ∧ ∀ j, k < j → j < n → p j = false := by
  induction n with
  | zero => simp at h
  | succ n ih =>
    rw [List.range_succ, List.reverse_append, List.reverse_singleton, List.singleton_append,
      List.find?_cons] at h
    cases hn : p n with
    | true =>
      rw [hn] at h
      cases h
      exact ⟨hn, fun j hj hlt => by omega⟩
    | false =>
      rw [hn] at h
      obtain ⟨hk, habove⟩ := ih h
      refine ⟨hk, fun j hj hlt => ?_⟩
      rcases Nat.lt_succ_iff_lt_or_eq.1 hlt with hlt | rfl
      · exact habove j hj hlt
      · exact hn

/-- The highest one-bit brackets x between two powers of two. -/
theorem highestBit_bounds {x : Operand} {p : Nat} (h : highestBit x = some p) :
    2 ^ p ≤ x.toNat ∧ x.toNat < 2 ^ (p + 1) := by
  obtain ⟨hp, habove⟩ := find_reverse_range_eq_some h
  refine ⟨Nat.ge_two_pow_of_testBit hp, Nat.lt_pow_two_of_testBit _ fun j hj => ?_⟩
  rcases Nat.lt_or_ge j 64 with hlt | hge
  · exact habove j hj hlt
  · exact BitVec.getLsbD_of_ge x j hge

/-- Only x = 0 has no highest one-bit. -/
theorem eq_zero_of_highestBit_none {x : Operand} (h : highestBit x = none) : x = 0#64 := by
  rw [highestBit, List.find?_eq_none] at h
  refine BitVec.eq_of_getLsbD_eq fun i hi => ?_
  have hbit := h i (List.mem_reverse.2 (List.mem_range.2 hi))
  rw [BitVec.getLsbD_zero]
  exact Bool.eq_false_iff.2 hbit

/-- Between 2^p and 2^(p+1) with p <= 55, class(x) is p / 7 + 1 (R85). -/
theorem lengthClass_of_highestBit_le {x : Operand} {p : Nat} (hlo : 2 ^ p ≤ x.toNat)
    (hhi : x.toNat < 2 ^ (p + 1)) (hp : p ≤ 55) : lengthClass x = p / 7 + 1 := by
  have hle : lengthClass x ≤ p / 7 + 1 := by
    refine (lengthClass_le_iff x (by omega) (by omega)).2 (hhi.trans_le ?_)
    exact Nat.pow_le_pow_right (by decide) (by omega)
  have hgt : p / 7 < lengthClass x := by
    rcases Nat.eq_zero_or_pos (p / 7) with h0 | hpos
    · rw [h0]; exact lengthClass_pos x
    · refine (lt_lengthClass_iff x hpos (by omega)).2 (le_trans ?_ hlo)
      exact Nat.pow_le_pow_right (by decide) (by omega)
  omega

/-- Settles O3: the highest one-bit p puts x between 2^p and 2^(p+1); without one, x = 0. -/
theorem highestBitMethodAgrees : Obligations.HighestBitMethodAgrees := by
  intro x
  unfold highestBitClass
  cases hbit : highestBit x with
  | none =>
    rw [eq_zero_of_highestBit_none hbit]
    decide
  | some p =>
    obtain ⟨hlo, hhi⟩ := highestBit_bounds hbit
    dsimp only
    split
    case isTrue hp => exact (lengthClass_of_highestBit_le hlo hhi hp).symm
    case isFalse hp =>
      have hbig : 2 ^ (7 * 8) ≤ x.toNat :=
        (Nat.pow_le_pow_right (by decide) (by omega)).trans hlo
      have hgt := (lt_lengthClass_iff x (by decide) le_rfl).2 hbig
      have hle := lengthClass_le x
      omega

/-- class(x) is at least n exactly from lo(n) on (R86). -/
theorem le_lengthClass_iff (x : Operand) {n : Nat} (h1 : 1 ≤ n) (h9 : n ≤ 9) :
    n ≤ lengthClass x ↔ (if n = 1 then 0 else 2 ^ (7 * (n - 1))) ≤ x.toNat := by
  split
  case isTrue hn =>
    have hpos := lengthClass_pos x
    omega
  case isFalse hn =>
    rw [← lt_lengthClass_iff x (by omega) (by omega)]
    omega

/-- class(x) is at most n exactly up to hi(n) (R86). -/
theorem lengthClass_le_iff_le_hi (x : Operand) {n : Nat} (h1 : 1 ≤ n) (h9 : n ≤ 9) :
    lengthClass x ≤ n ↔ x.toNat ≤ (if n = 9 then 2 ^ 64 - 1 else 2 ^ (7 * n) - 1) := by
  split
  case isTrue hn =>
    have hle := lengthClass_le x
    have hlt := x.isLt
    omega
  case isFalse hn =>
    rw [lengthClass_le_iff x h1 (by omega)]
    exact (le_threshold_iff x.toNat n).symm

/-- Settles O4: the two bounds of class(x), one from each end of the range. -/
theorem classRanges : Obligations.ClassRanges := by
  intro x n h1 h9
  rw [← le_lengthClass_iff x h1 h9, ← lengthClass_le_iff_le_hi x h1 h9, and_comm]
  exact Nat.le_antisymm_iff

end Sys2Proof.Machine
end

section
/-! SUPPORT. The masks of BLD bit by bit, what they keep of a marker, and where each bit of x goes:
the obligations of R64, R95, R96 and R98. -/

namespace Sys2Proof.Machine

/-- Bit i of prefix_mask(n): set from bit 9 - n upward (R95). -/
theorem prefixMask_getLsbD (n : Nat) {i : Nat} (hi : i < 8) :
    (prefixMask n).getLsbD i = decide (9 - n ≤ i) := by
  have hones : (0xff#8) = BitVec.allOnes 8 := by decide
  rw [prefixMask, hones, BitVec.getLsbD_shiftLeft, BitVec.getLsbD_allOnes]
  simp only [hi, decide_true, Bool.true_and]
  rcases Nat.lt_or_ge i (9 - n) with hlt | hge
  · rw [decide_eq_true hlt, decide_eq_false (p := 9 - n ≤ i) (by omega)]
    rfl
  · rw [decide_eq_false (p := i < 9 - n) (by omega), decide_eq_true hge,
      decide_eq_true (by omega)]
    rfl

/-- data_mask(n) is the number 2^(8-n) - 1 (R96). -/
theorem dataMask_toNat (n : Nat) : (dataMask n).toNat = 2 ^ (8 - n) - 1 := by
  have hle : 2 ^ (8 - n) ≤ 2 ^ 8 := Nat.pow_le_pow_right (by decide) (Nat.sub_le 8 n)
  rw [dataMask_eq_ofNat, Nat.one_shiftLeft, BitVec.toNat_ofNat, Nat.mod_eq_of_lt (by omega)]

/-- Bit i of data_mask(n): set below bit 8 - n (R96). -/
theorem dataMask_getLsbD (n i : Nat) : (dataMask n).getLsbD i = decide (i < 8 - n) := by
  rw [← BitVec.testBit_toNat, dataMask_toNat, Nat.testBit_two_pow_sub_one]

/-- The marker bits and the data bits of a class are disjoint (R95, R96). -/
theorem prefixMask_and_dataMask (n : Nat) : prefixMask n &&& dataMask n = 0#8 := by
  refine BitVec.eq_of_getLsbD_eq fun i hi => ?_
  rw [BitVec.getLsbD_and, prefixMask_getLsbD n hi, dataMask_getLsbD, BitVec.getLsbD_zero,
    ← Bool.decide_and]
  exact decide_eq_false (by omega)

/-- The marker bits above the zero bit, as a number: n - 1 ones in front of 9 - n zeros (R95). -/
theorem prefixMask_toNat {n : Nat} (h1 : 1 ≤ n) (h8 : n ≤ 8) :
    (prefixMask n).toNat = (2 ^ (n - 1) - 1) <<< (9 - n) := by
  interval_cases n
  all_goals rfl

/-- Settles O6: the bits of each mask, their disjointness, and the one bit 8 - n that the two leave
out, class by class. -/
theorem masksHaveTheirBits : Obligations.MasksHaveTheirBits := by
  intro n h1 h8
  refine ⟨fun i hi => prefixMask_getLsbD n hi, fun i _ => dataMask_getLsbD n i, dataMask_toNat n,
    prefixMask_and_dataMask n, ?_⟩
  interval_cases n
  all_goals rfl

/-- What the data mask leaves of a number below 2^(8-n): all of it (R98). -/
theorem and_dataMask_toNat {v n : Nat} (h : v < 2 ^ (8 - n)) : v &&& (dataMask n).toNat = v := by
  rw [dataMask_toNat, Nat.and_two_pow_sub_one_eq_mod, Nat.mod_eq_of_lt h]

/-- The part of x that goes into the marker of class n fits its 8 - n data bits (R98). -/
theorem marker_data_lt {v n : Nat} (h1 : 1 ≤ n) (h8 : n ≤ 8) (h : v < 2 ^ (7 * n)) :
    v / 2 ^ (8 * (n - 1)) < 2 ^ (8 - n) := by
  refine Nat.div_lt_of_lt_mul ?_
  rwa [← Nat.pow_add, show 8 * (n - 1) + (8 - n) = 7 * n by omega]

/-- Settles O7: x < 2^(7n), so the shift by 8(n-1) leaves a number below 2^(8-n). -/
theorem markerMaskRemovesNothing : Obligations.MarkerMaskRemovesNothing := by
  intro x h8
  have hlt := (lengthClass_le_iff x (lengthClass_pos x) h8).1 le_rfl
  have hdata := marker_data_lt (lengthClass_pos x) h8 hlt
  apply BitVec.eq_of_toNat_eq
  rw [BitVec.toNat_and, BitVec.toNat_setWidth_of_le (by decide), BitVec.toNat_ushiftRight,
    Nat.shiftRight_eq_div_pow]
  exact and_dataMask_toNat hdata

/-- The j-th of the bytes from m - 1 down to 0 is byte m - 1 - j of x. -/
theorem bytesDown_getElem? (x : Operand) {m j : Nat} (h : j < m) :
    (bytesDown x m)[j]? = some (byteOf x (m - 1 - j)) := by
  induction m generalizing j with
  | zero => omega
  | succ k ih =>
    cases j with
    | zero => rfl
    | succ j =>
      rw [bytesDown, List.getElem?_cons_succ, ih (by omega)]
      congr 2
      omega

/-- encode(x) is a marker and the lower bytes of x, in every class. -/
theorem encodeBytes_eq_cons (x : Operand) :
    ∃ m, encodeBytes x = m :: bytesDown x (lengthClass x - 1) := by
  unfold encodeBytes
  split
  case isTrue h9 => exact ⟨_, by rw [h9]⟩
  case isFalse => exact ⟨_, rfl⟩

/-- Bit i of the marker of class n, below the zero bit, is bit 8(n-1) + i of x (R64). -/
theorem marker_getLsbD (x : Operand) {n i : Nat} (hi : i < 8 - n) :
    (prefixMask n ||| (byteOf x (n - 1) &&& dataMask n)).getLsbD i =
      x.getLsbD (8 * (n - 1) + i) := by
  have hi8 : i < 8 := by omega
  have hbelow : ¬ 9 - n ≤ i := by omega
  rw [BitVec.getLsbD_or, prefixMask_getLsbD n hi8, BitVec.getLsbD_and, dataMask_getLsbD,
    byteOf_eq_slice, BitVec.getLsbD_extractLsb']
  simp [hbelow, hi, hi8]

/-- Settles O10: the payload counts the bytes of x down, and the marker takes its low bits from the
byte above them. -/
theorem everyOperandBitHasItsPlace : Obligations.EveryOperandBitHasItsPlace := by
  intro x
  refine ⟨fun j h1 hj => ?payload, fun h8 => ?marker, fun h9 => ?escape⟩
  case payload =>
    obtain ⟨m, hm⟩ := encodeBytes_eq_cons x
    obtain ⟨k, rfl⟩ := Nat.exists_eq_add_of_le' h1
    rw [hm, List.getElem?_cons_succ, bytesDown_getElem? x (by omega), byteOf_eq_slice]
    congr 3
    omega
  case marker =>
    rw [encodeBytes_of_packed rfl h8]
    exact ⟨_, rfl, fun i hi => marker_getLsbD x hi⟩
  case escape =>
    rw [encodeBytes_of_escape h9]
    rfl

end Sys2Proof.Machine
end

section
/-! SUPPORT. The nine forms as numbers (R62, R65): a form of length n has its marker
bits above its data bits, and the first byte tells them (R66). From this the obligations about the
words of the table. -/

namespace Sys2Proof

/-- The number of data bits of the form of length n (R62, R64). -/
def dataBits (n : Nat) : Nat := if n = 9 then 64 else 7 * n

/-- What stands above the data bits of the form of length n: n - 1 ones and a zero, or eight ones
(R65). -/
def formPrefix (n : Nat) : Nat := if n = 9 then 255 else 2 ^ n - 2

/-- The whole-number layout of R65 is the marker bits, then the data bits. -/
theorem formWord_eq {n : Nat} (h1 : 1 ≤ n) (h9 : n ≤ 9) (d : Nat) :
    formWord n d = formPrefix n * 2 ^ dataBits n + d := by
  interval_cases n
  all_goals simp [formWord, formPrefix, dataBits]

/-- Above its data bits a form of length n has its marker bits. -/
theorem formWord_div {n d : Nat} (h1 : 1 ≤ n) (h9 : n ≤ 9) (hd : d < 2 ^ dataBits n) :
    formWord n d / 2 ^ dataBits n = formPrefix n := by
  rw [formWord_eq h1 h9, Nat.mul_comm, Nat.mul_add_div (Nat.two_pow_pos _), Nat.div_eq_of_lt hd,
    Nat.add_zero]

/-- The data bits of a form of length n. -/
theorem formWord_mod {n d : Nat} (h1 : 1 ≤ n) (h9 : n ≤ 9) (hd : d < 2 ^ dataBits n) :
    formWord n d % 2 ^ dataBits n = d := by
  rw [formWord_eq h1 h9, Nat.mul_comm, Nat.mul_add_mod, Nat.mod_eq_of_lt hd]

/-- A number with the marker bits of length n is the form of its own data bits. -/
theorem formWord_of_prefix {n w : Nat} (h1 : 1 ≤ n) (h9 : n ≤ 9)
    (hw : w / 2 ^ dataBits n = formPrefix n) : formWord n (w % 2 ^ dataBits n) = w := by
  rw [formWord_eq h1 h9, ← hw, Nat.mul_comm, Nat.div_add_mod]

/-- A form of length n fits its n bytes. -/
theorem formWord_lt {n d : Nat} (h1 : 1 ≤ n) (h9 : n ≤ 9) (hd : d < 2 ^ dataBits n) :
    formWord n d < 2 ^ (8 * n) := by
  rw [formWord_eq h1 h9]
  interval_cases n
  all_goals simp [formPrefix, dataBits] at hd ⊢; omega

/-- The bytes of a form read back as the form. -/
theorem valueBE_bytesBE_formWord {n d : Nat} (h1 : 1 ≤ n) (h9 : n ≤ 9)
    (hd : d < 2 ^ dataBits n) : valueBE (bytesBE n (formWord n d)) = formWord n d := by
  rw [valueBE_bytesBE, Nat.mod_eq_of_lt (formWord_lt h1 h9 hd)]

/-- Settles O19: all 256 bytes against the nine rows. -/
theorem eachFirstByteHasOneRow : Obligations.EachFirstByteHasOneRow := by
  unfold Obligations.EachFirstByteHasOneRow
  decide

/-- A byte begins a form of length n exactly when its top bits are the marker bits of n (R66). -/
theorem lengthOfFirstByte_eq_some_iff {n : Nat} (h1 : 1 ≤ n) (h9 : n ≤ 9) (m : Byte) :
    lengthOfFirstByte m = some n ↔ m.toNat / 2 ^ (dataBits n - 8 * (n - 1)) = formPrefix n := by
  revert m
  interval_cases n
  all_goals decide

/-- The first of n bytes is the number they spell, less its lower 8(n-1) bits; so the number
has the marker bits of its first byte. -/
theorem lengthOfFirstByte_eq_some_iff_valueBE {n : Nat} {m : Byte} {t : List Byte}
    (hlen : (m :: t).length = n) (h9 : n ≤ 9) :
    lengthOfFirstByte m = some n ↔ valueBE (m :: t) / 2 ^ dataBits n = formPrefix n := by
  have h1 : 1 ≤ n := by rw [← hlen]; exact Nat.succ_pos _
  have ht : t.length = n - 1 := by rw [← hlen]; rfl
  have hsplit : dataBits n = 8 * (n - 1) + (dataBits n - 8 * (n - 1)) := by
    unfold dataBits; split <;> omega
  have hpow : 2 ^ (8 * (n - 1)) = 256 ^ t.length := by rw [ht, Nat.pow_mul]
  have hbyte : valueBE (m :: t) / 2 ^ (8 * (n - 1)) = m.toNat := by
    rw [hpow, valueBE_cons, Nat.mul_comm, Nat.mul_add_div (by positivity),
      Nat.div_eq_of_lt (valueBE_lt t), Nat.add_zero]
  have hdiv : valueBE (m :: t) / 2 ^ dataBits n =
      m.toNat / 2 ^ (dataBits n - 8 * (n - 1)) := by
    conv_lhs => rw [hsplit, Nat.pow_add, ← Nat.div_div_eq_div_mul, hbyte]
  rw [hdiv, lengthOfFirstByte_eq_some_iff h1 h9]

/-! ### The forms as instructions -/

theorem Instr.length_pos (i : Instr) : 1 ≤ i.length := by
  cases i with
  | encode x => exact Machine.lengthClass_pos x
  | _ => simp [Instr.length]

theorem Instr.length_le (i : Instr) : i.length ≤ 9 := by
  cases i with
  | encode x => exact Machine.lengthClass_le x
  | _ => simp [Instr.length]

/-- A form's operand is no longer than its data bits (R64). -/
theorem Instr.operand_lt {i : Instr} (hform : ∀ x, i ≠ .encode x) :
    i.operand.toNat < 2 ^ dataBits i.length := by
  cases i with
  | encode x => exact absurd rfl (hform x)
  | enc9 v => exact v.isLt
  | _ v =>
    rw [Instr.operand, BitVec.toNat_setWidth_of_le (by decide)]
    exact v.isLt

/-- A form's item is the layout of R65 with the operand for data bits. -/
theorem encode_eq_form {i : Instr} (hform : ∀ x, i ≠ .encode x) :
    encode i = .form (bytesBE i.length (formWord i.length i.operand.toNat)) := by
  cases i with
  | encode x => exact absurd rfl (hform x)
  | enc9 v => rfl
  | _ v =>
    rw [Instr.operand, BitVec.toNat_setWidth_of_le (by decide)]
    rfl

/-- The form read from a number is the one with that length and those data bits. -/
theorem formOfWord_eq_some_iff {n w : Nat} {i : Instr} :
    formOfWord n w = some i ↔
      (∀ x, i ≠ .encode x) ∧ i.length = n ∧ i.operand.toNat = w % 2 ^ dataBits n := by
  constructor
  · intro h
    unfold formOfWord at h
    split at h
    case h_9 =>
      cases h
      exact ⟨fun x => Instr.noConfusion, rfl, BitVec.toNat_ofNat w 64⟩
    case h_10 => cases h
    all_goals
      cases h
      exact ⟨fun x => Instr.noConfusion, rfl,
        (BitVec.toNat_setWidth_of_le (by decide)).trans (BitVec.toNat_ofNat w _)⟩
  · rintro ⟨hform, rfl, hdata⟩
    cases i with
    | encode x => exact absurd rfl (hform x)
    | enc9 v =>
      have hv : BitVec.ofNat 64 w = v :=
        BitVec.eq_of_toNat_eq ((BitVec.toNat_ofNat w 64).trans hdata.symm)
      rw [← hv]; rfl
    | _ v =>
      rw [Instr.operand, BitVec.toNat_setWidth_of_le (by decide)] at hdata
      rw [← BitVec.eq_of_toNat_eq ((BitVec.toNat_ofNat w _).trans hdata.symm)]; rfl

/-- A sequence of n bytes with the marker bits of n is read as the form of its number. -/
theorem decodeForm_of_prefix {bytes : List Byte} {n : Nat} {i : Instr} (hlen : bytes.length = n)
    (hprefix : valueBE bytes / 2 ^ dataBits n = formPrefix n)
    (hi : formOfWord n (valueBE bytes) = some i) : decodeForm bytes = .ok i := by
  obtain ⟨-, hn, -⟩ := formOfWord_eq_some_iff.1 hi
  have h1 := i.length_pos
  have h9 := i.length_le
  cases bytes with
  | nil => rw [List.length_nil] at hlen; omega
  | cons m t =>
    have hrow := (lengthOfFirstByte_eq_some_iff_valueBE hlen (by omega)).2 hprefix
    simp only [decodeForm, hrow, if_pos hlen, hi]

/-- All that reading a sequence as a form says of it. -/
theorem prefix_of_decodeForm {bytes : List Byte} {i : Instr} (h : decodeForm bytes = .ok i) :
    bytes.length = i.length ∧ valueBE bytes / 2 ^ dataBits i.length = formPrefix i.length ∧
      formOfWord i.length (valueBE bytes) = some i := by
  unfold decodeForm at h
  split at h
  · cases h
  · rename_i m t
    split at h
    · cases h
    · rename_i n hrow
      split at h
      · rename_i hlen
        split at h
        · cases h
        · rename_i j hj
          cases h
          obtain ⟨-, rfl, -⟩ := formOfWord_eq_some_iff.1 hj
          exact ⟨hlen, (lengthOfFirstByte_eq_some_iff_valueBE hlen i.length_le).1 hrow, hj⟩
      · cases h

/-- Settles O16: a request is read as it stands; a form's bytes have its length and its marker
bits, and their number ends in its data bits. -/
theorem decodeOfEncode : Obligations.DecodeOfEncode := by
  intro i
  by_cases hreq : ∃ x, i = .encode x
  case pos =>
    obtain ⟨x, rfl⟩ := hreq
    rfl
  case neg =>
    have hform : ∀ x, i ≠ .encode x := fun x hx => hreq ⟨x, hx⟩
    have hlt := i.operand_lt hform
    have hvalue := valueBE_bytesBE_formWord i.length_pos i.length_le hlt
    rw [encode_eq_form hform, decode]
    refine decodeForm_of_prefix (length_bytesBE _ _) ?_ ?_
    · rw [hvalue, formWord_div i.length_pos i.length_le hlt]
    · rw [hvalue, formOfWord_eq_some_iff, formWord_mod i.length_pos i.length_le hlt]
      exact ⟨hform, rfl, rfl⟩

/-- Settles O17: the sequence and the form's item have one length and one number, for the
marker bits and the data bits are the same. -/
theorem encodeOfDecode : Obligations.EncodeOfDecode := by
  intro bytes i h
  obtain ⟨hlen, hprefix, hi⟩ := prefix_of_decodeForm h
  obtain ⟨hform, -, hdata⟩ := formOfWord_eq_some_iff.1 hi
  rw [encode_eq_form hform]
  congr 1
  apply valueBE_injective
  · rw [length_bytesBE, hlen]
  · rw [valueBE_bytesBE_formWord i.length_pos i.length_le (i.operand_lt hform), hdata,
      formWord_of_prefix i.length_pos i.length_le hprefix]

/-- Settles O20: each word read by the decoder. -/
theorem writtenOutWordsDecode : Obligations.WrittenOutWordsDecode :=
  ⟨rfl, rfl, rfl, rfl, rfl, rfl⟩

/-- Settles O21: a request word is read as it stands, and its length is the class of its operand. -/
theorem everyRequestIsLegal : Obligations.EveryRequestIsLegal :=
  fun x => ⟨rfl, beq_self_eq_true (Machine.lengthClass x)⟩

end Sys2Proof
end

section
/-! SUPPORT. encode(x) is the form of class(x) with the data bits x (R65). So its first byte tells
its length, its number tells x, and no other sequence of a form's pattern is ever produced: the
obligations of R62, R65 to R68, R70 and R113. -/

namespace Sys2Proof.Machine

/-- The marker of a packed class as a number: its marker bits, then the top bits of x (R97). -/
theorem marker_toNat (x : Operand) {n : Nat} (h1 : 1 ≤ n) (h8 : n ≤ 8)
    (hx : x.toNat < 2 ^ (7 * n)) :
    (prefixMask n ||| (byteOf x (n - 1) &&& dataMask n)).toNat =
      (prefixMask n).toNat + x.toNat / 2 ^ (8 * (n - 1)) := by
  have hdata := marker_data_lt h1 h8 hx
  have hbyte : (byteOf x (n - 1)).toNat = x.toNat / 2 ^ (8 * (n - 1)) := by
    have hle : 2 ^ (8 - n) ≤ 2 ^ 8 := Nat.pow_le_pow_right (by decide) (Nat.sub_le 8 n)
    rw [byteOf_toNat, Nat.mod_eq_of_lt (by omega)]
  have hgap : x.toNat / 2 ^ (8 * (n - 1)) < 2 ^ (9 - n) :=
    hdata.trans (Nat.pow_lt_pow_right (by decide) (by omega))
  rw [BitVec.toNat_or, BitVec.toNat_and, hbyte, and_dataMask_toNat hdata, prefixMask_toNat h1 h8,
    Nat.shiftLeft_add_eq_or_of_lt hgap]

/-- encode(x) in a packed class, as one number: the marker bits, then x. -/
theorem valueBE_encodeBytes_of_packed {x : Operand} (h8 : lengthClass x ≤ 8) :
    valueBE (encodeBytes x) =
      (prefixMask (lengthClass x)).toNat <<< (8 * (lengthClass x - 1)) + x.toNat := by
  have h1 := lengthClass_pos x
  have hx := (lengthClass_le_iff x h1 h8).1 le_rfl
  rw [encodeBytes_of_packed rfl h8, valueBE_cons, valueBE_bytesDown, bytesDown_length,
    marker_toNat x h1 h8 hx, show (256 : Nat) = 2 ^ 8 from rfl, ← Nat.pow_mul, Nat.add_mul,
    Nat.add_assoc, Nat.div_add_mod', Nat.shiftLeft_eq]

/-- encode(x) in the escape class, as one number. -/
theorem valueBE_encodeBytes_of_escape {x : Operand} (h9 : lengthClass x = 9) :
    valueBE (encodeBytes x) = 0xff <<< 64 + x.toNat := by
  rw [encodeBytes_of_escape h9, valueBE_cons, valueBE_bytesDown, bytesDown_length,
    Nat.mod_eq_of_lt x.isLt]
  rfl

/-- The marker bits in their place are those of the form above its data bits. -/
theorem prefixMask_shift_add {n : Nat} (h1 : 1 ≤ n) (h8 : n ≤ 8) (d : Nat) :
    (prefixMask n).toNat <<< (8 * (n - 1)) + d = formWord n d := by
  rw [formWord, if_neg (by omega), prefixMask_toNat h1 h8, ← Nat.shiftLeft_add,
    show 9 - n + 8 * (n - 1) = 7 * n + 1 by omega, Nat.shiftLeft_eq]

/-- encode(x) read as one number is the form of class(x) with the data bits x (R65). -/
theorem valueBE_encodeBytes (x : Operand) :
    valueBE (encodeBytes x) = formWord (lengthClass x) x.toNat := by
  rcases (lengthClass_le x).eq_or_lt with h9 | hlt
  · rw [valueBE_encodeBytes_of_escape h9, h9]
    rfl
  · have h8 : lengthClass x ≤ 8 := Nat.le_of_lt_succ hlt
    rw [valueBE_encodeBytes_of_packed h8, prefixMask_shift_add (lengthClass_pos x) h8]

/-- x fits the data bits of its own class. -/
theorem operand_lt_dataBits (x : Operand) : x.toNat < 2 ^ dataBits (lengthClass x) := by
  unfold dataBits
  split
  case isTrue => exact x.isLt
  case isFalse h9 =>
    have hle := lengthClass_le x
    exact (lengthClass_le_iff x (lengthClass_pos x) (by omega)).1 le_rfl

/-- encode(x) is the byte sequence of the form of class(x) with the data bits x. -/
theorem encodeBytes_eq_bytesBE (x : Operand) :
    encodeBytes x = bytesBE (lengthClass x) (formWord (lengthClass x) x.toNat) := by
  apply valueBE_injective
  · rw [encodeBytes_length_eq, length_bytesBE]
  · rw [valueBE_encodeBytes, valueBE_bytesBE_formWord (lengthClass_pos x) (lengthClass_le x)
      (operand_lt_dataBits x)]

/-- Settles O11: marker bits and data bits do not overlap, so the `|` of the rule is their sum. -/
theorem sequenceIsOneNumber : Obligations.SequenceIsOneNumber := by
  intro x
  split
  case isTrue h9 =>
    rw [valueBE_encodeBytes_of_escape h9, Nat.shiftLeft_add_eq_or_of_lt x.isLt]
  case isFalse h9 =>
    have h1 := lengthClass_pos x
    have hle := lengthClass_le x
    have h8 : lengthClass x ≤ 8 := by omega
    have hx := (lengthClass_le_iff x h1 h8).1 le_rfl
    have hgap : x.toNat < 2 ^ (9 - lengthClass x + 8 * (lengthClass x - 1)) :=
      hx.trans (Nat.pow_lt_pow_right (by decide) (by omega))
    rw [valueBE_encodeBytes_of_packed h8, prefixMask_toNat h1 h8, ← Nat.shiftLeft_add,
      Nat.shiftLeft_add_eq_or_of_lt hgap]

/-- The first byte of encode(x) is of the row of class(x) (R66). -/
theorem lengthOfFirstByte_of_encodeBytes {x : Operand} {m : Byte} {t : List Byte}
    (h : encodeBytes x = m :: t) : lengthOfFirstByte m = some (lengthClass x) := by
  have hlen : (m :: t).length = lengthClass x := by rw [← h, encodeBytes_length_eq]
  rw [lengthOfFirstByte_eq_some_iff_valueBE hlen (lengthClass_le x), ← h, valueBE_encodeBytes,
    formWord_div (lengthClass_pos x) (lengthClass_le x) (operand_lt_dataBits x)]

/-- The bits a class fixes in its marker, the zero included, are its prefix_mask (R113). -/
theorem marker_and_prefix {n : Nat} (h1 : 1 ≤ n) (h8 : n ≤ 8) (b : Byte) :
    (prefixMask n ||| (b &&& dataMask n)) &&& (0xff#8 <<< (8 - n)) = prefixMask n := by
  have hfixed : prefixMask n &&& (0xff#8 <<< (8 - n)) = prefixMask n ∧
      dataMask n &&& (0xff#8 <<< (8 - n)) = 0#8 := by
    interval_cases n
    all_goals decide
  obtain ⟨hprefix, hdata⟩ := hfixed
  rw [BitVec.and_or_distrib_right, hprefix, BitVec.and_assoc, hdata, BitVec.and_zero,
    BitVec.or_zero]

/-- Settles O12: the first byte is of the row of class(x), the row of its leading ones, and carries
the marker bits of that class. -/
theorem firstByteFixesLength : Obligations.FirstByteFixesLength := by
  intro x
  obtain ⟨m, hm⟩ := encodeBytes_eq_cons x
  have hrow := lengthOfFirstByte_of_encodeBytes hm
  refine ⟨m, _, hm, ?_, hrow, fun h8 => ?packed, fun h9 => ?escape⟩
  · obtain ⟨-, hones⟩ := eachFirstByteHasOneRow m
    exact Option.some.inj (hones.symm.trans hrow)
  case packed =>
    have hcons := (encodeBytes_of_packed rfl h8).symm.trans hm
    rw [← (List.cons.inj hcons).1]
    exact marker_and_prefix (lengthClass_pos x) h8 _
  case escape => exact (List.cons.inj ((encodeBytes_of_escape h9).symm.trans hm)).1.symm

/-- Sequences that begin with the same byte have the same class. -/
theorem lengthClass_eq_of_prefix {x y : Operand} (h : encodeBytes x <+: encodeBytes y) :
    lengthClass x = lengthClass y := by
  obtain ⟨m, hx⟩ := encodeBytes_eq_cons x
  obtain ⟨k, hy⟩ := encodeBytes_eq_cons y
  have hmk : m = k := by
    rw [hx, hy] at h
    exact (List.cons_prefix_cons.1 h).1
  rw [← hmk] at hy
  exact Option.some.inj
    ((lengthOfFirstByte_of_encodeBytes hx).symm.trans (lengthOfFirstByte_of_encodeBytes hy))

/-- Settles O13: the common first byte gives both one length, so the one is the whole of the other,
and its number gives the operand. -/
theorem encodingIsPrefixFree : Obligations.EncodingIsPrefixFree := by
  intro x y h
  have hclass := lengthClass_eq_of_prefix h
  have heq : encodeBytes x = encodeBytes y :=
    h.eq_of_length (by rw [encodeBytes_length_eq, encodeBytes_length_eq, hclass])
  have hword : formWord (lengthClass y) x.toNat = formWord (lengthClass y) y.toNat := by
    rw [← valueBE_encodeBytes y, ← heq, valueBE_encodeBytes x, hclass]
  rw [formWord_eq (lengthClass_pos y) (lengthClass_le y),
    formWord_eq (lengthClass_pos y) (lengthClass_le y)] at hword
  exact BitVec.eq_of_toNat_eq (Nat.add_left_cancel hword)

/-- Settles O15: the length of such a sequence says class n and its number says x = v, which is
below class n. -/
theorem nonMinimalIsNeverProduced : Obligations.NonMinimalIsNeverProduced := by
  intro n v x h2 h9 hv heq
  have hclass : lengthClass x = n := by
    rw [← encodeBytes_length_eq, heq, length_bytesBE]
  have hlow : 2 ^ (7 * (n - 1)) ≤ x.toNat :=
    (lt_lengthClass_iff x (by omega) (by omega)).1 (by omega)
  have hbits : v < 2 ^ dataBits n := by
    refine hv.trans_le (Nat.pow_le_pow_right (by decide) ?_)
    unfold dataBits
    split <;> omega
  have hword : formWord n x.toNat = formWord n v := by
    rw [← valueBE_bytesBE_formWord (by omega) h9 hbits, ← heq, valueBE_encodeBytes, hclass]
  rw [formWord_eq (by omega) h9, formWord_eq (by omega) h9] at hword
  omega

/-- Settles O18: the form's length is the class of its operand, and its item the layout of R65. -/
theorem formItemIsTheSequenceSent : Obligations.FormItemIsTheSequenceSent := by
  intro i hform hwf
  have hclass : lengthClass i.operand = i.length := beq_iff_eq.1 hwf
  rw [encode_eq_form hform, encodeBytes_eq_bytesBE, hclass]

/-- A run of k bytes 0xff is the number 256^k - 1. -/
theorem valueBE_replicate_ones (k : Nat) :
    valueBE (List.replicate k 0xff#8) + 1 = 256 ^ k := by
  induction k with
  | zero => rfl
  | succ k ih =>
    rw [List.replicate_succ, valueBE_cons, List.length_replicate, Nat.add_assoc, ih, Nat.pow_succ]
    simp only [BitVec.toNat_ofNat]
    omega

/-- The data bits of the sequence of length n that begins with m and goes on with ones. -/
def onesAfter (m : Byte) (n : Nat) : Nat :=
  valueBE (m :: List.replicate (n - 1) 0xff#8) % 2 ^ dataBits n

theorem onesAfter_lt (m : Byte) (n : Nat) : onesAfter m n < 2 ^ dataBits n :=
  Nat.mod_lt _ (Nat.two_pow_pos _)

/-- The lower n - 1 bytes are ones. -/
theorem le_onesAfter (m : Byte) {n : Nat} (h9 : n ≤ 9) : 2 ^ (8 * (n - 1)) ≤ onesAfter m n + 1 := by
  have hpow : 2 ^ (8 * (n - 1)) = 256 ^ (n - 1) := Nat.pow_mul 2 8 (n - 1)
  have hones := valueBE_replicate_ones (n - 1)
  have hlow : valueBE (m :: List.replicate (n - 1) 0xff#8) % 2 ^ (8 * (n - 1)) =
      valueBE (List.replicate (n - 1) 0xff#8) := by
    rw [valueBE_cons, List.length_replicate, hpow, Nat.mul_add_mod_of_lt (by omega)]
  have hdvd : 2 ^ (8 * (n - 1)) ∣ 2 ^ dataBits n := by
    refine Nat.pow_dvd_pow 2 ?_
    unfold dataBits
    split <;> omega
  have hmod : onesAfter m n % 2 ^ (8 * (n - 1)) = valueBE (List.replicate (n - 1) 0xff#8) := by
    rw [onesAfter, Nat.mod_mod_of_dvd _ hdvd, hlow]
  have hle := Nat.mod_le (onesAfter m n) (2 ^ (8 * (n - 1)))
  omega

/-- With its lower n - 1 bytes ones, an operand that fits the data bits of n is of class n. -/
theorem lengthClass_of_ones {x : Operand} {n : Nat} (h1 : 1 ≤ n) (h9 : n ≤ 9)
    (hlt : x.toNat < 2 ^ dataBits n) (hones : 2 ^ (8 * (n - 1)) ≤ x.toNat + 1) :
    lengthClass x = n := by
  have hle : lengthClass x ≤ n := by
    rcases h9.eq_or_lt with rfl | hn
    · exact lengthClass_le x
    · rw [dataBits, if_neg (by omega)] at hlt
      exact (lengthClass_le_iff x h1 (by omega)).2 hlt
  have hgt : n - 1 < lengthClass x := by
    rcases h1.eq_or_lt with rfl | hn
    · exact lengthClass_pos x
    · have hpow : 2 ^ (7 * (n - 1)) < 2 ^ (8 * (n - 1)) :=
        Nat.pow_lt_pow_right (by decide) (by omega)
      exact (lt_lengthClass_iff x (by omega) (by omega)).2 (by omega)
  omega

theorem leadingOnes_le : ∀ m : Byte, leadingOnes m ≤ 8 := by decide

/-- Settles O14: m fixes a length n, and the sequence of length n that goes on with ones is encode
of its own data bits. -/
theorem everyFirstByteIsProduced : Obligations.EveryFirstByteIsProduced := by
  intro m
  obtain ⟨-, hrow⟩ := eachFirstByteHasOneRow m
  have h8 := leadingOnes_le m
  generalize hn : leadingOnes m + 1 = n at hrow
  have h1 : 1 ≤ n := by omega
  have h9 : n ≤ 9 := by omega
  have hlen : (m :: List.replicate (n - 1) 0xff#8).length = n := by
    rw [List.length_cons, List.length_replicate]
    omega
  have hprefix := (lengthOfFirstByte_eq_some_iff_valueBE hlen h9).1 hrow
  have hlt := onesAfter_lt m n
  have hfit : 2 ^ dataBits n ≤ 2 ^ 64 := by
    refine Nat.pow_le_pow_right (by decide) ?_
    unfold dataBits
    split <;> omega
  have hx : (BitVec.ofNat 64 (onesAfter m n)).toNat = onesAfter m n := by
    rw [BitVec.toNat_ofNat, Nat.mod_eq_of_lt (hlt.trans_le hfit)]
  have hclass : lengthClass (BitVec.ofNat 64 (onesAfter m n)) = n :=
    lengthClass_of_ones h1 h9 (by rw [hx]; exact hlt) (by rw [hx]; exact le_onesAfter m h9)
  refine ⟨BitVec.ofNat 64 (onesAfter m n), List.replicate (n - 1) 0xff#8, ?_⟩
  apply valueBE_injective
  · rw [encodeBytes_length_eq, hclass, hlen]
  · rw [valueBE_encodeBytes, hclass, hx, onesAfter, formWord_of_prefix h1 h9 hprefix]

end Sys2Proof.Machine
end

section
/-! SUPPORT. Every instruction as one ACCEPT: the bytes it hands over, that a form hands over the
ones of ENCODE, and how the step comes to run it. The obligations about the forms, the slot and the
placing of a table word (R62, R110, R112, R122, R130 (a)). -/

namespace Sys2Proof.Machine

theorem builtBytes_length (x : Operand) {n : Nat} {bytes : List Byte} (s : State)
    (hlen : bytes.length = n) (h9 : n ≤ 9) : (builtBytes x n bytes s).length = n := by
  rcases builtBytes_cases x n bytes s with ⟨-, hb⟩ | ⟨-, hb⟩
  · rw [hb, hlen]
  · rw [hb, List.length_take, Vector.length_toList, Nat.min_eq_left h9]

/-- An instruction hands over as many bytes as its length says, specified or not (R61, R110). -/
theorem instrBytes_length (i : Instr) (s : State) : (instrBytes i s).length = i.length := by
  cases i with
  | encode x => exact encodeBytes_length_eq x
  | _ v => exact builtBytes_length _ s rfl (by decide)

/-- In IDLE every instruction is accepted with its own operand, length and bytes (R122). -/
theorem exec_acceptedAs (i : Instr) {s : State} (hidle : s.ph = .idle) :
    ∃ t, exec i s = .next t ∧ AcceptedAs i.operand i.length (instrBytes i s) s t := by
  rw [exec_eq, acceptIfIdle_idle _ _ _ _ hidle]
  exact ⟨_, rfl, accept_acceptedAs i.operand s (instrBytes_length i s) i.length_le⟩

/-- Settles O24: it is accepted as every instruction is, over the bytes it is handed. -/
theorem formOfAnotherClassRuns : Obligations.FormOfAnotherClassRuns := by
  intro i s hidle _
  obtain ⟨t, hexec, haccepted⟩ := exec_acceptedAs i hidle
  exact ⟨t, instrBytes i s, hexec, instrBytes_length i s, haccepted⟩

/-- Settles O25: ACCEPT is not enabled outside IDLE. -/
theorem formsWaitOutsideIdle : Obligations.FormsWaitOutsideIdle := by
  intro i s hbusy
  rw [exec_eq, acceptIfIdle_busy _ _ _ _ hbusy]

/-- The form of class(x) is handed encode(x) (R112). -/
theorem builtBytes_of_class {x : Operand} {n : Nat} {bytes : List Byte} (s : State)
    (hclass : lengthClass x = n) (hbytes : formBytes n x = some bytes) :
    builtBytes x n bytes s = encodeBytes x := by
  rw [builtBytes, if_pos hclass]
  rw [← hclass, formBytes_lengthClass] at hbytes
  exact (Option.some.inj hbytes).symm

/-- A well-formed instruction hands over encode of its operand. -/
theorem instrBytes_of_wellFormed {i : Instr} (s : State) (hwf : i.wellFormed = true) :
    instrBytes i s = encodeBytes i.operand := by
  have hclass : lengthClass i.operand = i.length := beq_iff_eq.1 hwf
  cases i with
  | encode x => rfl
  | _ v => exact builtBytes_of_class s hclass rfl

/-- Every operand of class n has a form of length n. -/
theorem exists_form (x : Operand) :
    ∃ i : Instr, (∀ y, i ≠ .encode y) ∧ i.length = lengthClass x ∧ i.operand = x := by
  have hsome : ∃ i, formOfWord (lengthClass x) x.toNat = some i := by
    have h1 := lengthClass_pos x
    have h9 := lengthClass_le x
    generalize lengthClass x = n at h1 h9
    interval_cases n
    all_goals exact ⟨_, rfl⟩
  obtain ⟨i, hi⟩ := hsome
  obtain ⟨hform, hlen, hdata⟩ := formOfWord_eq_some_iff.1 hi
  rw [Nat.mod_eq_of_lt (operand_lt_dataBits x)] at hdata
  exact ⟨i, hform, hlen, BitVec.eq_of_toNat_eq hdata⟩

/-- Settles O26: both are ACCEPT of one operand, one length and the same bytes. -/
theorem encodeDispatchesToItsForm : Obligations.EncodeDispatchesToItsForm := by
  refine ⟨fun i s hwf => ?_, fun x => ?_⟩
  · have hclass : lengthClass i.operand = i.length := beq_iff_eq.1 hwf
    rw [exec_eq i, instrBytes_of_wellFormed s hwf, ← hclass]
    exact exec_eq (.encode i.operand) s
  · obtain ⟨i, hform, hlen, rfl⟩ := exists_form x
    exact ⟨i, hform, rfl, beq_iff_eq.2 hlen.symm⟩

/-- A well-formed form in IDLE is accepted with the bytes of its item. -/
theorem form_acceptedAs {i : Instr} {w : Nat} {s : State} (hidle : s.ph = .idle)
    (hitem : encode i = .form (bytesBE i.length w)) (hwf : i.wellFormed = true) :
    ∃ t, exec i s = .next t ∧ AcceptedAs i.operand i.length (bytesBE i.length w) s t := by
  have hform : ∀ x, i ≠ .encode x := by
    rintro x rfl
    exact Item.noConfusion hitem
  have hbytes : bytesBE i.length w = encodeBytes i.operand :=
    Item.form.inj (hitem.symm.trans (formItemIsTheSequenceSent i hform hwf))
  rw [hbytes, ← instrBytes_of_wellFormed s hwf]
  exact exec_acceptedAs i hidle

/-- Settles O23: the pattern of each form is its item, and BUF holds the item's bytes. -/
theorem formsAreAccepted : Obligations.FormsAreAccepted :=
  fun _ hidle => ⟨
    fun v => form_acceptedAs (i := .enc1 v) (w := v.toNat) hidle
      (by simp [encode, formWord, Instr.length]),
    fun v => form_acceptedAs (i := .enc2 v) hidle rfl,
    fun v => form_acceptedAs (i := .enc3 v) hidle rfl,
    fun v => form_acceptedAs (i := .enc4 v) hidle rfl,
    fun v => form_acceptedAs (i := .enc5 v) hidle rfl,
    fun v => form_acceptedAs (i := .enc6 v) hidle rfl,
    fun v => form_acceptedAs (i := .enc7 v) hidle rfl,
    fun v => form_acceptedAs (i := .enc8 v) hidle rfl,
    fun v => form_acceptedAs (i := .enc9 v) hidle rfl⟩

/-- A request transfer runs its instruction past the edge, with the slot empty (R122). -/
theorem step_eq_exec {s : State} {e : Edge} {rest : List Edge} {i : Instr}
    (hin : s.inputs = e :: rest) (ht : transfer s e = .request i) :
    step s = exec i { s with inputs := rest, slot := none } := by
  obtain rfl : rest = s.inputs.tail := by rw [hin, List.tail_cons]
  rw [step, edge_of_inputs hin, ht]
  rfl

/-- Settles O27: in IDLE the slot comes first, and with an empty slot a request that is not held
back is transferred. -/
theorem stepRunsTheDecodedInstruction : Obligations.StepRunsTheDecodedInstruction := by
  intro s e rest hidle hin hrst
  refine ⟨fun hslot hvalid hfree i hdecode => ?request, fun i hslot => ?slot⟩
  case request =>
    cases hdecode
    have ht : transfer s e = .request (.encode e.reqX) := by
      simp [transfer, reqReady, hrst, hidle, hslot, hvalid, hfree]
    rw [step_eq_exec hin ht, ← hslot]
  case slot =>
    have ht : transfer s e = .request i := by simp [transfer, hrst, hidle, hslot]
    exact step_eq_exec hin ht

/-- A placed item runs as what it reads as: a request word from `req_x`, a form from the slot. -/
theorem step_placeItem {s : State} {item : Item} {i : Instr} (h : decode item = .ok i) :
    step (placeItem s item) = exec i { s with ph := .idle, slot := none } := by
  cases item with
  | request x =>
    cases h
    obtain ⟨hrequest, -⟩ := stepRunsTheDecodedInstruction (placeItem s (.request x))
      (Edge.request x) s.inputs rfl rfl rfl
    exact hrequest rfl rfl rfl _ rfl
  | form bytes =>
    have hplace : placeItem s (.form bytes) =
        { s with ph := .idle, slot := some i, inputs := Edge.quiet :: s.inputs } := by
      have hform : decodeForm bytes = .ok i := h
      simp only [placeItem, hform]
    rw [hplace]
    obtain ⟨-, hslot⟩ := stepRunsTheDecodedInstruction
      { s with ph := .idle, slot := some i, inputs := Edge.quiet :: s.inputs } Edge.quiet s.inputs
      rfl rfl rfl
    exact hslot i rfl

/-- Settles O28: the word's item is placed, and reads as i. -/
theorem placedWordRunsNext : Obligations.PlacedWordRunsNext := by
  intro s nbits w i h
  apply step_placeItem
  unfold decodeTableWord at h
  split at h
  · cases h; assumption
  · cases h

end Sys2Proof.Machine
end

section
/-! SUPPORT. What the ports show, phase by phase (R29, R31), and each step named by the event of its
edge (R30, R121): the obligations about single edges. -/

namespace Sys2Proof.Machine

/-! ### The ports -/

@[simp] theorem outputs_reqReady (s : State) (e : Edge) :
    (outputs s e).reqReady = reqReady s e := rfl
@[simp] theorem outputs_byteValid (s : State) (e : Edge) :
    (outputs s e).byteValid = byteValid s e := rfl
@[simp] theorem outputs_rspValid (s : State) (e : Edge) :
    (outputs s e).rspValid = rspValid s e := rfl

/-- `byte_valid` is up in SEND, once raised or not held back (R31). -/
theorem byteValid_iff (s : State) (e : Edge) :
    byteValid s e = true ↔ s.ph = .send ∧ (s.raised = true ∨ holds s e = false) := by
  simp [byteValid]

/-- `rsp_valid` is up in RESP, once raised or not held back (R31). -/
theorem rspValid_iff (s : State) (e : Edge) :
    rspValid s e = true ↔ s.ph = .resp ∧ (s.raised = true ∨ holds s e = false) := by
  simp [rspValid]

theorem byteValid_of_not_send {s : State} (e : Edge) (h : s.ph ≠ .send) :
    byteValid s e = false := by
  simp [byteValid, h]

theorem rspValid_of_not_resp {s : State} (e : Edge) (h : s.ph ≠ .resp) : rspValid s e = false := by
  simp [rspValid, h]

/-- ENC is ready in IDLE when nothing keeps it (R29, R160). -/
theorem reqReady_of_idle {s : State} {e : Edge} (hidle : s.ph = .idle) (hslot : s.slot = none)
    (hrst : e.rst = false) (hfree : holds s e = false) : reqReady s e = true := by
  simp [reqReady, hidle, hslot, hrst, hfree]

/-- While `rst` is 1 ENC is not ready (R160). -/
theorem reqReady_of_rst (s : State) {e : Edge} (hrst : e.rst = true) : reqReady s e = false := by
  simp [reqReady, hrst]

theorem busy_of_idle {s : State} (h : s.ph = .idle) : busy s = false := by simp [busy, h]

theorem busy_of_not_idle {s : State} (h : s.ph ≠ .idle) : busy s = true := by
  cases hph : s.ph with
  | idle => exact absurd hph h
  | send => simp [busy, hph]
  | resp => simp [busy, hph]

/-- While `rsp_valid` is up, the response ports carry ERR, IDX and FV (R127). -/
theorem outputs_response {s : State} {e : Edge} (h : rspValid s e = true) :
    (outputs s e).rspErr = s.err ∧ (outputs s e).rspCount = s.idx ∧
      (outputs s e).rspFault = s.fv := ⟨if_pos h, if_pos h, if_pos h⟩

/-- Settles O29: `byte_valid` is up only in SEND, and then `byte_data` is the byte on offer. -/
theorem onlyTheByteAtIndexIsOffered : Obligations.OnlyTheByteAtIndexIsOffered := by
  intro s e hvalid
  obtain ⟨hsend, -⟩ := (byteValid_iff s e).1 hvalid
  exact ⟨hsend, fun b hb => (outputs_byteData hvalid).trans (offeredByte_eq hb)⟩

/-- Settles O37: each of the three belongs to a phase of its own. -/
theorem atMostOneHandshakeIsOpen : Obligations.AtMostOneHandshakeIsOpen := by
  intro s e
  refine ⟨fun hready => ?_, fun hvalid => ?_⟩
  · have hidle : s.ph = .idle := by
      by_contra hbusy
      rw [outputs_reqReady, reqReady_of_not_idle e hbusy] at hready
      cases hready
    exact ⟨byteValid_of_not_send e (by simp [hidle]), rspValid_of_not_resp e (by simp [hidle])⟩
  · obtain ⟨hsend, -⟩ := (byteValid_iff s e).1 hvalid
    exact rspValid_of_not_resp e (by simp [hsend])

/-- In IDLE no valid is up and ENC is not busy. -/
theorem quiet_of_idle {s : State} (hidle : s.ph = .idle) (e : Edge) :
    (outputs s e).byteValid = false ∧ (outputs s e).rspValid = false ∧
      (outputs s e).busy = false :=
  ⟨byteValid_of_not_send e (by simp [hidle]), rspValid_of_not_resp e (by simp [hidle]),
    busy_of_idle hidle⟩

/-- Settles O43: the reset state is in IDLE. -/
theorem resetStateIsIdle : Obligations.ResetStateIsIdle := ⟨rfl, quiet_of_idle rfl⟩

/-! ### The step by its event -/

theorem passEdge_eq {s : State} {e : Edge} {rest : List Edge} (hin : s.inputs = e :: rest) :
    passEdge s = { s with inputs := rest } := by
  rw [passEdge, hin, List.tail_cons]

/-- A reset edge is RESET, whatever else it carries (R148, R160). -/
theorem step_eq_resetStep {s : State} {e : Edge} {rest : List Edge} (hin : s.inputs = e :: rest)
    (hrst : e.rst = true) : step s = .next (resetStep (passEdge s)) := by
  have ht : transfer s e = .reset := by simp [transfer, hrst]
  rw [step, edge_of_inputs hin, ht]

/-- A failed byte is EMIT-failed, whatever `byte_ready` is (R126, R148). -/
theorem step_eq_raiseSinkFail {s : State} {e : Edge} {rest : List Edge}
    (hin : s.inputs = e :: rest) (hrst : e.rst = false) (hvalid : byteValid s e = true)
    (hfail : e.byteFail = true) : step s = .next (raiseSinkFail e.byteFault (passEdge s)) := by
  obtain ⟨hsend, -⟩ := (byteValid_iff s e).1 hvalid
  have ht : transfer s e = .byteFailed e.byteFault := by
    simp [transfer, hrst, hsend, hvalid, hfail]
  rw [step, edge_of_inputs hin, ht]

/-- A response that REQ takes is RESPOND (R127). -/
theorem step_eq_respond {s : State} {e : Edge} {rest : List Edge} (hin : s.inputs = e :: rest)
    (hrst : e.rst = false) (hvalid : rspValid s e = true) (htake : e.rspReady = true) :
    step s = .next (respond (passEdge s)) := by
  obtain ⟨hresp, -⟩ := (rspValid_iff s e).1 hvalid
  have ht : transfer s e = .response := by simp [transfer, hrst, hresp, hvalid, htake]
  rw [step, edge_of_inputs hin, ht]

/-- An edge that completes no handshake passes quietly (R30). -/
theorem step_eq_passQuietly {s : State} {e : Edge} (hedge : edge s = e) (hrst : e.rst = false)
    (hslot : s.ph = .idle → s.slot = none)
    (hreq : (e.reqValid && reqReady s e) = false)
    (hbyte : (byteValid s e && (e.byteReady || e.byteFail)) = false)
    (hrsp : (rspValid s e && e.rspReady) = false) :
    step s = .next (passQuietly e (passEdge s)) := by
  have ht : transfer s e = .nothing := by
    rcases transfer_cases s e with ⟨hr, -⟩ | ⟨-, hidle, i, hs, -⟩ |
      ⟨-, hidle, hs, hv, hfree, -⟩ | ⟨-, -, hv, hf, -⟩ | ⟨-, -, hv, -, ha, -⟩ |
      ⟨-, -, hv, ha, -⟩ | ⟨-, -, -, -, ht⟩
    · rw [hrst] at hr; cases hr
    · rw [hslot hidle] at hs; cases hs
    · simp [hv, reqReady_of_idle hidle hs hrst hfree] at hreq
    · simp [hv, hf] at hbyte
    · simp [hv, ha] at hbyte
    · simp [hv, ha] at hrsp
    · exact ht
  rw [step, hedge, ht]

/-- What a quiet edge leaves is the state with its schedule, its raised valid, its patience and its
count of free values moved on. -/
theorem passQuietly_passEdge_eq {s : State} {e : Edge} {rest : List Edge}
    (hin : s.inputs = e :: rest) :
    passQuietly e (passEdge s) =
      { s with
        inputs := rest, raised := byteValid s e || rspValid s e,
        patience := (passQuietly e (passEdge s)).patience,
        fresh := (passQuietly e (passEdge s)).fresh } := by
  rw [passEdge_eq hin]
  rfl

/-- Settles O32: the step is EMIT-failed, and in RESP no byte is on offer. -/
theorem failedByteEndsTheOperation : Obligations.FailedByteEndsTheOperation := by
  intro s e rest hin hrst hsend hup hfail
  refine ⟨_, step_eq_raiseSinkFail hin hrst (byteValid_of_send hsend hup) hfail, ?_, fun e' => ?_⟩
  · rw [passEdge_eq hin]
    rfl
  · exact byteValid_of_not_send e' (by simp)

/-- What RESPOND and RESET leave unchanged on their way to IDLE. -/
theorem idleAfter_respond {s : State} {e : Edge} {rest : List Edge} (hin : s.inputs = e :: rest) :
    IdleAfter rest s (respond (passEdge s)) := by
  rw [passEdge_eq hin]
  exact ⟨rfl, rfl, rfl, rfl, rfl, rfl⟩

theorem idleAfter_resetStep {s : State} {e : Edge} {rest : List Edge} (hin : s.inputs = e :: rest) :
    IdleAfter rest s (resetStep (passEdge s)) := by
  rw [passEdge_eq hin]
  exact ⟨rfl, rfl, rfl, rfl, rfl, rfl⟩

/-- Settles O33: the step is RESPOND, and IDLE with an empty slot is ready. -/
theorem responseCarriesTheOutcome : Obligations.ResponseCarriesTheOutcome := by
  intro s e rest hin hrst hresp hup htake
  have hvalid : rspValid s e = true := (rspValid_iff s e).2 ⟨hresp, hup⟩
  obtain ⟨herr, hcount, hfault⟩ := outputs_response hvalid
  refine ⟨herr, hcount, hfault, _, step_eq_respond hin hrst hvalid htake, idleAfter_respond hin,
    rfl, fun hslot e' hrst' hfree => ?_⟩
  exact reqReady_of_idle (respond_ph _) (by simp [hslot]) hrst' hfree

/-- The responses of a run are not changed by the note of an abandoned operation. -/
theorem responses_resetStep (s : State) : (resetStep s).responses = s.responses := by
  unfold State.responses
  rw [resetStep_history]
  split
  · simp
  · rfl

/-- Settles O34: the step is RESET. -/
theorem resetAbandonsTheOperation : Obligations.ResetAbandonsTheOperation := by
  intro s e rest hin hrst
  refine ⟨_, step_eq_resetStep hin hrst, idleAfter_resetStep hin, responses_resetStep _,
    fun hidle => ?_, fun hbusy => ?_, fun e' hrst' => ?_⟩
  · rw [resetStep_history, busy_of_idle (by simpa using hidle)]
    rfl
  · rw [resetStep_history, busy_of_not_idle (by simpa using hbusy)]
    rfl
  · exact ⟨reqReady_of_rst _ hrst', quiet_of_idle (resetStep_ph _) e'⟩

/-- Settles O35: the step passes the edge quietly. -/
theorem nothingChangesWithoutATransfer : Obligations.NothingChangesWithoutATransfer := by
  intro s e rest hin hrst hslot hreq hbyte hrsp
  exact ⟨_, step_eq_passQuietly (edge_of_inputs hin) hrst (fun _ => hslot) hreq hbyte hrsp,
    passQuietly_passEdge_eq hin⟩

/-- In SEND an unanswered byte passes the edge quietly. -/
theorem step_of_unanswered_byte {s : State} {e : Edge} (hedge : edge s = e) (hrst : e.rst = false)
    (hsend : s.ph = .send) (hready : e.byteReady = false) (hfail : e.byteFail = false) :
    step s = .next (passQuietly e (passEdge s)) := by
  apply step_eq_passQuietly hedge hrst
  · simp [hsend]
  · simp [reqReady_of_not_idle e (show s.ph ≠ .idle by simp [hsend])]
  · simp [hready, hfail]
  · simp [rspValid_of_not_resp e (show s.ph ≠ .resp by simp [hsend])]

/-- In RESP an untaken response passes the edge quietly. -/
theorem step_of_untaken_response {s : State} {e : Edge} (hedge : edge s = e)
    (hrst : e.rst = false) (hresp : s.ph = .resp) (htake : e.rspReady = false) :
    step s = .next (passQuietly e (passEdge s)) := by
  apply step_eq_passQuietly hedge hrst
  · simp [hresp]
  · simp [reqReady_of_not_idle e (show s.ph ≠ .idle by simp [hresp])]
  · simp [byteValid_of_not_send e (show s.ph ≠ .send by simp [hresp])]
  · simp [htake]

/-- Settles O36: the edge passes quietly and leaves the valid raised over the same BUF, IDX, ERR and
FV. -/
theorem raisedValidStaysRaised : Obligations.RaisedValidStaysRaised := by
  intro s t e e' rest hin hrst hstep
  refine ⟨fun hvalid hready hfail => ?byte, fun hvalid htake => ?response⟩
  case byte =>
    obtain ⟨hsend, -⟩ := (byteValid_iff s e).1 hvalid
    have hquiet := step_of_unanswered_byte (edge_of_inputs hin) hrst hsend hready hfail
    rw [hquiet] at hstep
    cases hstep
    have hup : byteValid (passQuietly e (passEdge s)) e' = true :=
      (byteValid_iff _ e').2 ⟨hsend, .inl (Bool.or_eq_true_iff.2 (.inl hvalid))⟩
    exact ⟨hup, (outputs_byteData hup).trans (outputs_byteData hvalid).symm⟩
  case response =>
    obtain ⟨hresp, -⟩ := (rspValid_iff s e).1 hvalid
    have hquiet := step_of_untaken_response (edge_of_inputs hin) hrst hresp htake
    rw [hquiet] at hstep
    cases hstep
    have hup : rspValid (passQuietly e (passEdge s)) e' = true :=
      (rspValid_iff _ e').2 ⟨hresp, .inl (Bool.or_eq_true_iff.2 (.inr hvalid))⟩
    obtain ⟨herr, hcount, hfault⟩ := outputs_response hvalid
    obtain ⟨herr', hcount', hfault'⟩ := outputs_response hup
    exact ⟨hup, herr'.trans herr.symm, hcount'.trans hcount.symm, hfault'.trans hfault.symm⟩

/-- Settles O39: the phase after each of the events a step can be. -/
theorem phaseMovesOnlyAsListed : Obligations.PhaseMovesOnlyAsListed := by
  intro s t e rest hin hslot hstep
  obtain rfl : edge s = e := edge_of_inputs hin
  rcases step_cases hslot hstep with ⟨hr, rfl⟩ | ⟨hr, hp, hv, -, rfl⟩ | ⟨hr, hp, -, hf, ha, rfl⟩ |
    ⟨hr, hp, -, hf, rfl⟩ | ⟨hr, hp, -, ha, rfl⟩ | ⟨hr, -, -, -, rfl⟩
  · simp [hr]
  · simp [hr, hp, hv]
  · cases hlast : lastByte s with
    | false => simp [hr, hp, hlast]
    | true =>
      have hn : s.idx.toNat + 1 = s.n.toNat := beq_iff_eq.1 hlast
      simp [hr, hp, hlast, hf, ha, hn]
  · simp [hr, hp, hf]
  · simp [hr, hp, ha]
  · simp +contextual [hr]

end Sys2Proof.Machine
end

section
/-! SUPPORT. What every step keeps: the state invariant of R33, the account of S of R133 and R161,
and the truth of the responses (R127, R141). Each is said of the operations first, and of the step
by the one list of what a step can do. -/

namespace Sys2Proof.Machine

/-! ### The invariant -/

/-- R33 asks nothing of IDLE but the ranges of N and IDX (R20). -/
theorem inv_of_idle {s : State} (hidle : s.ph = .idle) (hlen : 1 ≤ s.n.toNat ∧ s.n.toNat ≤ 9)
    (hidx : s.idx.toNat ≤ 9) (hraised : s.raised = false) (hslot : s.slot = none) : s.Inv where
  length_range := hlen
  index_range := hidx
  send h := by simp [hidle] at h
  resp_ok h := by simp [hidle] at h
  resp_fail h := by simp [hidle] at h
  raised h := by simp [hraised] at h
  slot := hslot

/-- The free values of IDLE stay in the ranges of N and IDX (log 3). -/
theorem inv_forget {s : State} (hslot : s.slot = none) : (forget s).Inv := by
  have hlen := (Config.freeLength s.fresh).isLt
  have hidx := (Config.freeIndex s.fresh).isLt
  refine inv_of_idle (forget_ph s) ?_ ?_ (forget_raised s) hslot
  · rw [forget_n, BitVec.toNat_ofNat, Nat.mod_eq_of_lt (by omega)]
    omega
  · rw [forget_idx, BitVec.toNat_ofNat, Nat.mod_eq_of_lt (by omega)]
    omega

/-- The invariant looks at neither the schedule nor the history. -/
theorem State.Inv.withRun {s : State} (h : s.Inv) (inputs : List Edge) (history : List Ended) :
    State.Inv { s with inputs := inputs, history := history } :=
  ⟨h.length_range, h.index_range, h.send, h.resp_ok, h.resp_fail, h.raised, h.slot⟩

theorem State.Inv.passEdge {s : State} (h : s.Inv) : (passEdge s).Inv :=
  h.withRun s.inputs.tail s.history

theorem inv_respond {s : State} (h : s.Inv) : (respond s).Inv :=
  (inv_forget h.slot).withRun s.inputs _

theorem inv_resetStep {s : State} (h : s.Inv) : (resetStep s).Inv :=
  (inv_forget h.slot).withRun s.inputs _

/-- An operation in flight has its sequence in BUF, and IDX has not passed its end (R33). -/
theorem State.Inv.in_flight {s : State} (h : s.Inv) (hbusy : s.ph ≠ .idle) :
    s.idx.toNat ≤ s.n.toNat ∧ s.holdsSequence := by
  cases hph : s.ph with
  | idle => exact absurd hph hbusy
  | send =>
    obtain ⟨hlt, -, hseq⟩ := h.send hph
    exact ⟨hlt.le, hseq⟩
  | resp =>
    cases herr : s.err with
    | false =>
      obtain ⟨hidx, hseq⟩ := h.resp_ok hph herr
      exact ⟨by rw [hidx], hseq⟩
    | true =>
      obtain ⟨hlt, hseq⟩ := h.resp_fail hph herr
      exact ⟨hlt.le, hseq⟩

/-- An accepted operand is in SEND with its whole sequence before it (R122). -/
theorem inv_of_acceptedAs {x : Operand} {s t : State}
    (h : AcceptedAs x (lengthClass x) (encodeBytes x) s t) (hslot : s.slot = none) : t.Inv where
  length_range := by
    rw [h.n]
    exact ⟨lengthClass_pos x, lengthClass_le x⟩
  index_range := by simp [h.idx]
  send _ := by
    refine ⟨?_, h.err, ?_, ?_⟩
    · rw [h.idx, h.n]
      exact lengthClass_pos x
    · rw [h.n, h.operand]
    · rw [h.n, h.buf, h.operand]
  resp_ok hph := by simp [h.ph] at hph
  resp_fail hph := by simp [h.ph] at hph
  raised _ := by simp [h.ph]
  slot := h.slot.trans hslot

/-- IDX after an accepted byte, which does not wrap (R24, R124). -/
theorem emitAccepted_idx_toNat {s : State} (h : s.Inv) (hsend : s.ph = .send) :
    (emitAccepted s).idx.toNat = s.idx.toNat + 1 :=
  toNat_idx_succ (h.send hsend).1

/-- After an accepted byte IDX < N in SEND, and IDX = N with ERR = 0 in RESP (R124, R125). -/
theorem inv_emitAccepted {s : State} (h : s.Inv) (hsend : s.ph = .send) : (emitAccepted s).Inv := by
  obtain ⟨hlt, herr, hseq⟩ := h.send hsend
  have hidx := emitAccepted_idx_toNat h hsend
  have hlen := h.length_range
  refine ⟨hlen, by omega, fun hph => ?send, fun hph _ => ?ok, fun _ hfail => ?fail,
    fun hr => ?raised, h.slot⟩
  case send =>
    have hmore : s.idx.toNat + 1 ≠ s.n.toNat := by
      intro hlast
      simp [lastByte, hlast] at hph
    exact ⟨by rw [hidx, emitAccepted_n]; omega, herr, hseq⟩
  case ok =>
    have hlast : s.idx.toNat + 1 = s.n.toNat := by
      by_contra hmore
      simp [lastByte, hmore] at hph
    exact ⟨BitVec.eq_of_toNat_eq (hidx.trans hlast), hseq⟩
  case fail => simp [herr] at hfail
  case raised => simp at hr

/-- A failed byte leaves IDX < N, now with ERR = 1 (R126). -/
theorem inv_raiseSinkFail {s : State} (h : s.Inv) (hsend : s.ph = .send) (e : SinkFault) :
    (raiseSinkFail e s).Inv := by
  obtain ⟨hlt, -, hseq⟩ := h.send hsend
  exact ⟨h.length_range, h.index_range, fun hph => by simp at hph, fun _ hok => by simp at hok,
    fun _ _ => ⟨hlt, hseq⟩, fun hr => by simp at hr, h.slot⟩

/-- A quiet edge raises a valid only in SEND or RESP. -/
theorem inv_passQuietly {s : State} (h : s.Inv) (e : Edge) : (passQuietly e s).Inv := by
  refine ⟨h.length_range, h.index_range, h.send, h.resp_ok, h.resp_fail, fun hr hidle => ?_, h.slot⟩
  rw [passQuietly_ph] at hidle
  simp [byteValid, rspValid, hidle] at hr

/-- A request transfer leaves what R122 says of its operand. -/
theorem acceptedAs_of_request (x : Operand) {s : State} (hslot : s.slot = none) :
    AcceptedAs x (lengthClass x) (encodeBytes x) { s with inputs := s.inputs.tail }
      (accept x (lengthClass x) (encodeBytes x) (clearSlot (passEdge s))) := by
  have hclear : clearSlot (passEdge s) = { s with inputs := s.inputs.tail } := by
    rw [passEdge, clearSlot, ← hslot]
  rw [hclear]
  exact accept_acceptedAs x _ (encodeBytes_length_eq x) (lengthClass_le x)

/-- Settles O45: each event of a step leaves the invariant of the phase it leads to. -/
theorem stepKeepsTheInvariant : Obligations.StepKeepsTheInvariant := by
  intro s t hinv hstep
  have hpast : (passEdge s).Inv := hinv.passEdge
  rcases step_cases hinv.slot hstep with ⟨-, rfl⟩ | ⟨-, -, -, -, rfl⟩ | ⟨-, hsend, -, -, -, rfl⟩ |
    ⟨-, hsend, -, -, rfl⟩ | ⟨-, -, -, -, rfl⟩ | ⟨-, -, -, -, rfl⟩
  · exact inv_resetStep hpast
  · exact inv_of_acceptedAs (acceptedAs_of_request _ hinv.slot) hinv.slot
  · exact inv_emitAccepted hpast hsend
  · exact inv_raiseSinkFail hpast hsend _
  · exact inv_respond hpast
  · exact inv_passQuietly hpast _

/-! ### The account of S -/

theorem inFlight_of_idle {s : State} (h : s.ph = .idle) : s.inFlight = [] := by
  simp [State.inFlight, h]

theorem inFlight_of_not_idle {s : State} (h : s.ph ≠ .idle) :
    s.inFlight = s.buf.toList.take s.idx.toNat := by
  cases hph : s.ph with
  | idle => exact absurd hph h
  | send => simp [State.inFlight, hph]
  | resp => simp [State.inFlight, hph]

/-- The accepted bytes of the operation in flight are the first IDX of its sequence (R33 (e)). -/
theorem State.Inv.inFlight_eq {s : State} (h : s.Inv) (hbusy : s.ph ≠ .idle) :
    s.inFlight = (encodeBytes s.operand).take s.idx.toNat := by
  obtain ⟨hle, -, hbuf⟩ := h.in_flight hbusy
  rw [inFlight_of_not_idle hbusy, ← hbuf, List.take_take, Nat.min_eq_left hle]

/-- An accepted byte is the next one of BUF (R124). -/
theorem inFlight_emitAccepted {s : State} (h : s.Inv) (hsend : s.ph = .send) :
    (emitAccepted s).inFlight = s.inFlight ++ [offeredByte s] := by
  have hlt : s.idx.toNat < 9 := (h.send hsend).1.trans_le h.length_range.2
  have hbyte : s.buf[s.idx.toNat]? = some s.buf[s.idx.toNat] := Vector.getElem?_eq_getElem hlt
  have hget : s.buf.toList[s.idx.toNat]? = some (offeredByte s) := by
    rw [Vector.getElem?_toList, hbyte, offeredByte_eq hbyte]
  have hbusy : (emitAccepted s).ph ≠ .idle := by
    rw [emitAccepted_ph]
    split <;> exact Phase.noConfusion
  rw [inFlight_of_not_idle hbusy, inFlight_of_not_idle (by simp [hsend]),
    emitAccepted_idx_toNat h hsend, emitAccepted_buf, List.take_add_one, hget, Option.toList_some]

/-- An operation that ends leaves in the account what it has in flight. -/
theorem accounted_of_ended {s0 : List Byte} {s t : State} {h : Ended} (hacc : s.Accounted s0)
    (hidle : t.ph = .idle) (hsink : t.sink = s.sink) (hhist : t.history = s.history ++ [h])
    (hbytes : h.bytes = s.inFlight) : t.Accounted s0 := by
  rw [State.Accounted, hsink, hacc, hhist, inFlight_of_idle hidle, List.flatMap_append,
    List.flatMap_singleton, hbytes, List.append_nil, List.append_assoc]

/-- A step that leaves S, the history and the bytes in flight leaves the account. -/
theorem accounted_of_unchanged {s0 : List Byte} {s t : State} (hacc : s.Accounted s0)
    (hsink : t.sink = s.sink) (hhist : t.history = s.history) (hflight : t.inFlight = s.inFlight) :
    t.Accounted s0 := by
  rw [State.Accounted, hsink, hacc, hhist, hflight]

theorem accounted_resetStep {s0 : List Byte} {s : State} (hinv : s.Inv) (hacc : s.Accounted s0) :
    (resetStep s).Accounted s0 := by
  by_cases hidle : s.ph = .idle
  case pos =>
    refine accounted_of_unchanged hacc rfl ?_ ?_
    · rw [resetStep_history, busy_of_idle hidle]
      rfl
    · rw [inFlight_of_idle hidle, inFlight_of_idle (resetStep_ph s)]
  case neg =>
    have hhist : (resetStep s).history = s.history ++ [.abandoned s.operand s.idx] := by
      rw [resetStep_history, busy_of_not_idle hidle]
      rfl
    exact accounted_of_ended hacc (resetStep_ph s) rfl hhist (hinv.inFlight_eq hidle).symm

/-- Settles O46: an accepted byte moves from BUF into the account, an ended operation from flight
into the history, and every other event leaves both. -/
theorem stepKeepsTheAccountOfTheSink : Obligations.StepKeepsTheAccountOfTheSink := by
  intro s0 s t hinv hacc hstep
  have hpast : (passEdge s).Inv := hinv.passEdge
  rcases step_cases hinv.slot hstep with ⟨-, rfl⟩ | ⟨-, hidle, -, -, rfl⟩ |
    ⟨-, hsend, -, -, -, rfl⟩ | ⟨-, hsend, -, -, rfl⟩ | ⟨-, hresp, -, -, rfl⟩ | ⟨-, -, -, -, rfl⟩
  · exact accounted_resetStep hpast hacc
  · refine accounted_of_unchanged hacc rfl rfl ?_
    rw [inFlight_of_idle hidle, inFlight_of_not_idle (by simp), accept_idx]
    exact List.take_zero
  · rw [State.Accounted, inFlight_emitAccepted hpast hsend, emitAccepted_sink, emitAccepted_history,
      ← List.append_assoc]
    exact congrArg (· ++ _) hacc
  · refine accounted_of_unchanged hacc rfl rfl ?_
    rw [inFlight_of_not_idle (by simp), inFlight_of_not_idle (by simp [hsend])]
    rfl
  · have hbusy : (passEdge s).ph ≠ .idle := by simp [hresp]
    exact accounted_of_ended hacc rfl rfl rfl (hpast.inFlight_eq hbusy).symm
  · exact accounted_of_unchanged hacc rfl rfl rfl

/-- Settles O44: the reset values of N and IDX are in range, and nothing has been put into S. -/
theorem invariantAtReset : Obligations.InvariantAtReset :=
  ⟨inv_of_idle rfl (by decide) (by decide) rfl rfl, rfl⟩

/-! ### The truth of the responses -/

/-- RESPOND reports IDX, which is class(x) with ERR = 0 and less with ERR = 1 (R33 (b), (c)). -/
theorem truthful_responded {s : State} (h : s.Inv) (hresp : s.ph = .resp) :
    (Ended.responded s.operand (response s)).truthful := by
  refine ⟨fun hok => ?_, fun hfail => ?_⟩
  · obtain ⟨hidx, hn, -⟩ := h.resp_ok hresp hok
    exact (congrArg BitVec.toNat hidx).trans hn
  · obtain ⟨hlt, hn, -⟩ := h.resp_fail hresp hfail
    rw [← hn]
    exact hlt

/-- A reset notes IDX, which has not passed class(x). -/
theorem truthful_abandoned {s : State} (h : s.Inv) (hbusy : s.ph ≠ .idle) :
    (Ended.abandoned s.operand s.idx).truthful := by
  obtain ⟨hle, hn, -⟩ := h.in_flight hbusy
  rw [Ended.truthful, ← hn]
  exact hle

/-- All a step does to the history: nothing, or one response in RESP, or one operation abandoned. -/
theorem history_cases {s t : State} (hslot : s.slot = none) (hstep : step s = .next t) :
    t.history = s.history ∨
    (s.ph = .resp ∧ t.history = s.history ++ [.responded s.operand (response s)]) ∨
    (s.ph ≠ .idle ∧ t.history = s.history ++ [.abandoned s.operand s.idx]) := by
  rcases step_cases hslot hstep with ⟨-, rfl⟩ | ⟨-, -, -, -, rfl⟩ | ⟨-, -, -, -, -, rfl⟩ |
    ⟨-, -, -, -, rfl⟩ | ⟨-, hresp, -, -, rfl⟩ | ⟨-, -, -, -, rfl⟩
  case inl =>
    by_cases hidle : s.ph = .idle
    · exact .inl (by simp [busy_of_idle (s := passEdge s) hidle])
    · exact .inr (.inr ⟨hidle, by simp [busy_of_not_idle (s := passEdge s) hidle]⟩)
  case inr.inr.inr.inr.inl => exact .inr (.inl ⟨hresp, rfl⟩)
  all_goals exact .inl rfl

/-- Settles O47: what a step adds to the history is truthful by the invariant. -/
theorem stepKeepsResponsesTruthful : Obligations.StepKeepsResponsesTruthful := by
  intro s t hinv htrue hstep
  have hadd : ∀ {h : Ended}, h.truthful → ∀ k ∈ s.history ++ [h], k.truthful := by
    intro h hh k hk
    rcases List.mem_append.1 hk with hold | hnew
    · exact htrue k hold
    · rw [List.mem_singleton.1 hnew]
      exact hh
  rcases history_cases hinv.slot hstep with h | ⟨hresp, h⟩ | ⟨hbusy, h⟩
  · rw [h]; exact htrue
  · rw [h]; exact hadd (truthful_responded hinv hresp)
  · rw [h]; exact hadd (truthful_abandoned hinv hbusy)

end Sys2Proof.Machine
end

section
/-! SUPPORT. The step of any state, its slot empty or not: it always answers, it only appends to S,
and it reads neither S nor the past. With it the obligations about single steps that ask nothing of
the state (R42, R69, R129, R132, R142), and those about several ENCs (R54, R153, R165). -/

namespace Sys2Proof.Machine

/-- A request transfer in IDLE, from the slot or from `req_x`, is an ACCEPT (R122). -/
theorem step_eq_accept {s : State} {i : Instr} (hidle : s.ph = .idle)
    (ht : transfer s (edge s) = .request i) :
    step s = .next (accept i.operand i.length (instrBytes i (clearSlot (passEdge s)))
      (clearSlot (passEdge s))) := by
  rw [step, ht]
  exact (exec_eq i _).trans (congrArg _ (acceptIfIdle_idle _ _ _ _ hidle))

/-- Requests are transferred in IDLE alone (R122). -/
theorem idle_of_request {s : State} {e : Edge} {i : Instr} (ht : transfer s e = .request i) :
    s.ph = .idle := by
  rcases transfer_cases s e with ⟨-, h⟩ | ⟨-, hidle, -⟩ | ⟨-, hidle, -⟩ | ⟨-, -, -, -, h⟩ |
    ⟨-, -, -, -, -, h⟩ | ⟨-, -, -, -, h⟩ | ⟨-, -, -, -, h⟩
  case inr.inl | inr.inr.inl => exact hidle
  all_goals
    rw [ht] at h
    cases h

/-- What the step of any state answers (R121). -/
theorem step_event (s : State) :
    step s = .next (resetStep (passEdge s)) ∨
    (∃ i : Instr, step s = .next (accept i.operand i.length (instrBytes i (clearSlot (passEdge s)))
      (clearSlot (passEdge s)))) ∨
    ((edge s).rst = false ∧ s.ph = .send ∧ (edge s).byteReady = true ∧ (edge s).byteFail = false ∧
      step s = .next (emitAccepted (passEdge s))) ∨
    step s = .next (raiseSinkFail (edge s).byteFault (passEdge s)) ∨
    step s = .next (respond (passEdge s)) ∨
    step s = .next (passQuietly (edge s) (passEdge s)) := by
  rcases transfer_cases s (edge s) with ⟨-, ht⟩ | ⟨-, hidle, i, -, ht⟩ | ⟨-, hidle, -, -, -, ht⟩ |
    ⟨-, -, -, -, ht⟩ | ⟨hr, hsend, -, hf, ha, ht⟩ | ⟨-, -, -, -, ht⟩ | ⟨-, -, -, -, ht⟩
  · exact .inl (by rw [step, ht])
  · exact .inr (.inl ⟨_, step_eq_accept hidle ht⟩)
  · exact .inr (.inl ⟨_, step_eq_accept hidle ht⟩)
  · exact .inr (.inr (.inr (.inl (by rw [step, ht]))))
  · exact .inr (.inr (.inl ⟨hr, hsend, ha, hf, by rw [step, ht]⟩))
  · exact .inr (.inr (.inr (.inr (.inl (by rw [step, ht])))))
  · exact .inr (.inr (.inr (.inr (.inr (by rw [step, ht])))))

/-- Every step answers a next state (R69, R142). -/
theorem exists_step (s : State) : ∃ t, step s = .next t := by
  rcases step_event s with h | ⟨i, h⟩ | ⟨-, -, -, -, h⟩ | h | h | h
  all_goals exact ⟨_, h⟩

theorem run_zero (s : State) : Sys2Proof.core.run 0 s = .next s := rfl

/-- A run is its first step and the run from there. -/
theorem run_succ {s t : State} (h : step s = .next t) (k : Nat) :
    Sys2Proof.core.run (k + 1) s = Sys2Proof.core.run k t := by
  have hstep : Sys2Proof.core.step s = .next t := h
  simp only [Host.Core.run, hstep]

/-- Settles O42: step by step. -/
theorem everyStateHasANextState : Obligations.EveryStateHasANextState := by
  intro s k
  induction k generalizing s with
  | zero => exact ⟨s, rfl⟩
  | succ k ih =>
    obtain ⟨t, ht⟩ := exists_step s
    rw [run_succ ht]
    exact ih t

/-- Settles O40: of all events only an accepted byte touches S. -/
theorem sinkIsAppendOnly : Obligations.SinkIsAppendOnly := by
  intro s t hstep
  rcases step_event s with h | ⟨i, h⟩ | ⟨hr, hsend, ha, hf, h⟩ | h | h | h
  all_goals
    rw [h] at hstep
    cases hstep
  case inr.inr.inl => exact .inr ⟨hr, hsend, ha, hf, rfl, rfl⟩
  all_goals exact .inl rfl

/-- Every step lets S grow by some bytes, one at most. -/
theorem exists_sink_append {s t : State} (hstep : step s = .next t) :
    ∃ bytes : List Byte, t.sink = s.sink ++ bytes := by
  rcases sinkIsAppendOnly s t hstep with h | ⟨-, -, -, -, h, -⟩
  · exact ⟨[], by rw [h, List.append_nil]⟩
  · exact ⟨_, h⟩

/-! ### Nothing reads the past -/

/-- The state with another S, another history and another last operand. -/
def State.withPast (s : State) (l : List Byte) (h : List Ended) (x : Operand) : State :=
  { s with sink := l, history := h, operand := x }

/-- An edge causes the same transfer, whatever the past. -/
theorem transfer_withPast (s : State) (l : List Byte) (h : List Ended) (x : Operand) :
    transfer (s.withPast l h x) (edge (s.withPast l h x)) = transfer s (edge s) := rfl

/-- A step over another past is the same step, with the same bytes appended to the other S. -/
theorem step_withPast {s t : State} (l : List Byte) (h : List Ended) (x : Operand)
    (hstep : step s = .next t) :
    ∃ (bytes : List Byte) (h' : List Ended) (x' : Operand), t.sink = s.sink ++ bytes ∧
      step (s.withPast l h x) = .next (t.withPast (l ++ bytes) h' x') := by
  have hpast := transfer_withPast s l h x
  cases ht : transfer s (edge s) with
  | request i =>
    have hidle := idle_of_request ht
    rw [step_eq_accept hidle ht] at hstep
    cases hstep
    refine ⟨[], h, i.operand, (List.append_nil _).symm, ?_⟩
    rw [List.append_nil, step_eq_accept (s := s.withPast l h x) hidle (hpast.trans ht)]
    rfl
  | byteAccepted =>
    rw [step, ht] at hstep
    cases hstep
    refine ⟨[offeredByte s], h, x, rfl, ?_⟩
    rw [step, hpast, ht]
    rfl
  | reset =>
    rw [step, ht] at hstep
    cases hstep
    refine ⟨[], (resetStep (s.withPast l h x)).history, x, (List.append_nil _).symm, ?_⟩
    rw [List.append_nil, step, hpast, ht]
    rfl
  | response =>
    rw [step, ht] at hstep
    cases hstep
    refine ⟨[], (respond (s.withPast l h x)).history, x, (List.append_nil _).symm, ?_⟩
    rw [List.append_nil, step, hpast, ht]
    rfl
  | _ =>
    rw [step, ht] at hstep
    cases hstep
    refine ⟨[], h, x, (List.append_nil _).symm, ?_⟩
    rw [List.append_nil, step, hpast, ht]
    rfl

/-- Settles O41: the two steps differ in the past alone, and S grows by the same bytes. -/
theorem nothingReadsTheSinkOrThePast : Obligations.NothingReadsTheSinkOrThePast := by
  intro s t l h x hstep
  obtain ⟨bytes, h', x', hsink, hpast⟩ := step_withPast l h x hstep
  refine ⟨_, hpast, rfl, ?_⟩
  rw [hsink, List.drop_left]
  rfl

/-! ### Several instances -/

/-- What a step of ENC number k does to all of them (log 15). -/
theorem stepOf_cases {k : Nat} {h h' : Shared} (hstep : h.stepOf k = .next h') :
    h' = h ∨
    ∃ (s t : State) (bytes : List Byte), h.encs[k]? = some s ∧ t.sink = s.sink ++ bytes ∧
      h' = ⟨h.encs.set k t, h.joined ++ bytes.map (fun b => (some k, b))⟩ := by
  unfold Shared.stepOf at hstep
  split at hstep
  · cases hstep
    exact .inl rfl
  · rename_i s hs
    obtain ⟨t, ht⟩ := exists_step s
    obtain ⟨bytes, hsink⟩ := exists_sink_append ht
    simp only [ht, hsink, List.drop_left] at hstep
    cases hstep
    exact .inr ⟨s, t, bytes, hs, hsink, rfl⟩

/-- Settles O55: the step writes the place of number k alone. -/
theorem instancesShareNothing : Obligations.InstancesShareNothing := by
  intro k j h h' hstep hne
  rcases stepOf_cases hstep with rfl | ⟨s, t, bytes, -, -, rfl⟩
  · rfl
  · exact List.getElem?_set_ne hne.symm

/-- Bytes that number k adds to the shared sink are its own, in order. -/
theorem bytesOf_append_same (k : Nat) (encs encs' : List State) (joined : List (Option Nat × Byte))
    (bytes : List Byte) :
    Shared.bytesOf k ⟨encs', joined ++ bytes.map (fun b => (some k, b))⟩ =
      Shared.bytesOf k ⟨encs, joined⟩ ++ bytes := by
  have hall : (bytes.map (fun b => (some k, b))).filter (fun p => p.1 == some k) =
      bytes.map (fun b => (some k, b)) := List.filter_eq_self.2 (by simp)
  simp [Shared.bytesOf, List.filter_append, hall, Function.comp_def]

/-- Bytes that come from elsewhere are none of number j. -/
theorem bytesOf_append_other {j : Nat} {o : Option Nat} (hne : o ≠ some j) (encs encs' : List State)
    (joined : List (Option Nat × Byte)) (bytes : List Byte) :
    Shared.bytesOf j ⟨encs', joined ++ bytes.map (fun b => (o, b))⟩ =
      Shared.bytesOf j ⟨encs, joined⟩ := by
  have hnone : (bytes.map (fun b => (o, b))).filter (fun p => p.1 == some j) = [] :=
    List.filter_eq_nil_iff.2 (by simp [hne])
  simp [Shared.bytesOf, List.filter_append, hnone]

/-- Settles O56: the bytes joined at a step are those the S of that ENC grew by, and every other
stream and every other ENC stays. -/
theorem sharedSinkKeepsEachStream : Obligations.SharedSinkKeepsEachStream := by
  intro s0 h hall
  refine ⟨fun k h' hstep j s hs => ?step, fun b j s hs => ?foreign⟩
  case step =>
    rcases stepOf_cases hstep with rfl | ⟨u, t, bytes, hu, hsink, rfl⟩
    · exact hall j s hs
    · by_cases hjk : j = k
      · subst hjk
        obtain ⟨hlt, -⟩ := List.getElem?_eq_some_iff.1 hu
        rw [List.getElem?_set_self hlt] at hs
        cases hs
        rw [hsink, bytesOf_append_same j h.encs, ← List.append_assoc]
        exact congrArg (· ++ bytes) (hall j u hu)
      · rw [List.getElem?_set_ne (Ne.symm hjk)] at hs
        rw [bytesOf_append_other (by simpa using Ne.symm hjk) h.encs]
        exact hall j s hs
  case foreign =>
    have hforeign := bytesOf_append_other (j := j) (o := none) (by simp) h.encs h.encs h.joined [b]
    exact (hall j s hs).trans (congrArg (s0 j ++ ·) hforeign.symm)

end Sys2Proof.Machine
end

section
/-! SUPPORT. Whole operations over a given schedule: the states from ACCEPT on by the number of
bytes accepted, and the three ways an operation ends (R120, R144, R145, R161). -/

namespace Sys2Proof.Machine

/-- A run, with one more step at its end. -/
theorem run_succ_last {s t : State} {k : Nat} (h : Sys2Proof.core.run k s = .next t) :
    Sys2Proof.core.run (k + 1) s = step t := by
  induction k generalizing s with
  | zero =>
    obtain ⟨u, hu⟩ := exists_step t
    cases h
    rw [run_succ hu, hu]
    exact run_zero u
  | succ k ih =>
    obtain ⟨u, hu⟩ := exists_step s
    rw [run_succ hu] at h ⊢
    exact ih h

/-- t is in the operation on x that was accepted in s, with i bytes accepted by the sink and the
schedule at `rest`. -/
structure Delivering (x : Operand) (i : Nat) (rest : List Edge) (s t : State) : Prop where
  inv : t.Inv
  ph : t.ph = if i = lengthClass x then .resp else .send
  idx : t.idx.toNat = i
  err : t.err = false
  operand : t.operand = x
  sink : t.sink = s.sink ++ t.inFlight
  history : t.history = s.history
  inputs : t.inputs = rest

theorem Delivering.not_idle {x : Operand} {i : Nat} {rest : List Edge} {s t : State}
    (h : Delivering x i rest s t) : t.ph ≠ .idle := by
  rw [h.ph]
  split <;> exact Phase.noConfusion

/-- The sink has taken the first i bytes of encode(x). -/
theorem Delivering.sink_eq {x : Operand} {i : Nat} {rest : List Edge} {s t : State}
    (h : Delivering x i rest s t) : t.sink = s.sink ++ (encodeBytes x).take i := by
  rw [h.sink, h.inv.inFlight_eq h.not_idle, h.operand, h.idx]

/-- The request edge begins the operation (R122). -/
theorem delivering_of_request {x : Operand} {s : State} {rest : List Edge} (hidle : s.ph = .idle)
    (hslot : s.slot = none) (hin : s.inputs = Edge.request x :: rest) :
    ∃ t, step s = .next t ∧ Delivering x 0 rest s t := by
  obtain ⟨hrequest, -⟩ := stepRunsTheDecodedInstruction s (Edge.request x) rest hidle hin rfl
  obtain ⟨hexec, -⟩ := encodeIsAccepted x { s with inputs := rest }
  obtain ⟨t, ht, hacc⟩ := hexec hidle
  have hpos := lengthClass_pos x
  refine ⟨t, (hrequest hslot rfl rfl _ rfl).trans ht, inv_of_acceptedAs hacc hslot, ?_, ?_,
    hacc.err, hacc.operand, ?_, hacc.history, hacc.inputs⟩
  · rw [hacc.ph, if_neg (by omega)]
  · rw [hacc.idx]
    rfl
  · rw [hacc.sink, inFlight_of_not_idle (by simp [hacc.ph]), hacc.idx]
    exact (List.append_nil _).symm

/-- An accepting edge takes one byte further (R124, R125). -/
theorem Delivering.step_accept {x : Operand} {i : Nat} {rest : List Edge} {s t : State}
    (h : Delivering x i (Edge.accept :: rest) s t) (hi : i < lengthClass x) :
    ∃ u, step t = .next u ∧ Delivering x (i + 1) rest s u := by
  have hsend : t.ph = .send := by rw [h.ph, if_neg hi.ne]
  have hpast : (passEdge t).Inv := h.inv.passEdge
  have hn : t.n.toNat = lengthClass x := by
    obtain ⟨-, -, hlen, -⟩ := h.inv.send hsend
    rw [hlen, h.operand]
  have hlast : lastByte t = decide (i + 1 = lengthClass x) := by
    rw [lastByte, h.idx, hn]
    rfl
  refine ⟨_, step_eq_emitAccepted h.inputs rfl hsend (.inr rfl) rfl rfl,
    inv_emitAccepted hpast hsend, ?_, ?_, h.err, h.operand, ?_, h.history, ?_⟩
  · rw [emitAccepted_ph, lastByte_passEdge, hlast]
    simp only [decide_eq_true_eq]
  · rw [emitAccepted_idx_toNat hpast hsend]
    exact congrArg (· + 1) h.idx
  · rw [inFlight_emitAccepted hpast hsend, emitAccepted_sink, ← List.append_assoc]
    exact congrArg (· ++ _) h.sink
  · rw [emitAccepted_inputs, passEdge_inputs, h.inputs, List.tail_cons]

/-- A request and i accepting edges deliver i bytes. -/
theorem delivering_run {x : Operand} {i : Nat} {s : State} {rest : List Edge} (hidle : s.ph = .idle)
    (hslot : s.slot = none) (hi : i ≤ lengthClass x)
    (hin : s.inputs = Edge.request x :: (List.replicate i Edge.accept ++ rest)) :
    ∃ t : State, Sys2Proof.core.run (i + 1) s = .next t ∧ Delivering x i rest s t := by
  induction i generalizing rest with
  | zero =>
    obtain ⟨t, hstep, ht⟩ := delivering_of_request hidle hslot hin
    exact ⟨t, (run_succ hstep 0).trans (run_zero t), ht⟩
  | succ i ih =>
    rw [List.replicate_succ', List.append_assoc, List.singleton_append] at hin
    obtain ⟨t, hrun, ht⟩ := ih (Nat.le_of_succ_le hi) hin
    obtain ⟨u, hstep, hu⟩ := ht.step_accept hi
    exact ⟨u, (run_succ_last hrun).trans hstep, hu⟩

/-- Settles O48: class(x) bytes are all of encode(x), and RESPOND reports them. -/
theorem encodeDeliversTheWholeSequence : Obligations.EncodeDeliversTheWholeSequence := by
  intro x s rest hidle hslot hin
  obtain ⟨t, hrun, ht⟩ := delivering_run hidle hslot le_rfl hin
  have hresp : t.ph = .resp := by rw [ht.ph, if_pos rfl]
  have hvalid : rspValid t Edge.take = true := (rspValid_iff _ _).2 ⟨hresp, .inr rfl⟩
  have hidle' := idleAfter_respond ht.inputs
  refine ⟨_, response t, (run_succ_last hrun).trans (step_eq_respond ht.inputs rfl hvalid rfl),
    hidle'.ph, ?_, ?_, ht.err, ht.idx, hidle'.inputs⟩
  · rw [hidle'.sink, ht.sink_eq, List.take_of_length_le (encodeBytes_length_eq x).le]
  · rw [respond_history, passEdge_history, ht.history, passEdge_operand, ht.operand]
    rfl

/-- Settles O49: the failed byte leaves the i accepted ones, and RESPOND reports i and e. -/
theorem encodeReportsTheSinkFailure : Obligations.EncodeReportsTheSinkFailure := by
  intro x i f s rest hidle hslot hi hin
  obtain ⟨t, hrun, ht⟩ := delivering_run hidle hslot hi.le hin
  have hsend : t.ph = .send := by rw [ht.ph, if_neg hi.ne]
  have hvalid : byteValid t (Edge.fail f) = true := (byteValid_iff _ _).2 ⟨hsend, .inr rfl⟩
  have hfail : step t = .next (raiseSinkFail f (passEdge t)) :=
    step_eq_raiseSinkFail ht.inputs rfl hvalid rfl
  have hrest : (raiseSinkFail f (passEdge t)).inputs = Edge.take :: rest := by
    rw [raiseSinkFail_inputs, passEdge_inputs, ht.inputs, List.tail_cons]
  have hvalid' : rspValid (raiseSinkFail f (passEdge t)) Edge.take = true :=
    (rspValid_iff _ _).2 ⟨rfl, .inr rfl⟩
  have hidle' := idleAfter_respond hrest
  have hcount : t.idx = BitVec.ofNat 4 i := by
    rw [← ht.idx, BitVec.ofNat_toNat, BitVec.setWidth_eq]
  refine ⟨_, (run_succ_last ((run_succ_last hrun).trans hfail)).trans
    (step_eq_respond hrest rfl hvalid' rfl), hidle'.ph, ?_, ?_, hidle'.inputs⟩
  · rw [hidle'.sink]
    exact ht.sink_eq
  · rw [← ht.history, ← ht.operand, ← hcount]
    rfl

/-- Settles O50: RESET leaves S and the responses as they are. -/
theorem resetMidwayLeavesTheBytesInTheSink : Obligations.ResetMidwayLeavesTheBytesInTheSink := by
  intro x i s rest hidle hslot hi hin
  obtain ⟨t, hrun, ht⟩ := delivering_run hidle hslot hi hin
  have hidle' := idleAfter_resetStep ht.inputs
  refine ⟨_, (run_succ_last hrun).trans (step_eq_resetStep ht.inputs rfl), hidle'.ph, ?_, ?_,
    hidle'.inputs⟩
  · rw [hidle'.sink, ht.sink_eq]
  · rw [responses_resetStep, State.responses, passEdge_history, ht.history]
    rfl

end Sys2Proof.Machine
end

section
/-! SUPPORT. Runs over any schedule: what ENC offers and what answers it, how an offer comes and
stays until it is answered (R31, R131, U14), and what leads from one state to another. -/

namespace Sys2Proof.Machine

/-! ### Offers and answers -/

/-- ENC's valid is up: a byte in SEND, the response in RESP. -/
def offers (s : State) (e : Edge) : Bool := byteValid s e || rspValid s e

/-- The edge carries the answer to what the phase offers: accept or fail in SEND, the taking of the
response in RESP. -/
def answers (s : State) (e : Edge) : Bool :=
  (s.ph == .send && (e.byteReady || e.byteFail)) || (s.ph == .resp && e.rspReady)

/-- Outside IDLE ENC offers unless it holds back what it has not yet raised (R31 (c)). -/
theorem offers_iff {s : State} (hbusy : s.ph ≠ .idle) (e : Edge) :
    offers s e = true ↔ s.raised = true ∨ holds s e = false := by
  cases hph : s.ph with
  | idle => exact absurd hph hbusy
  | send => simp [offers, byteValid, rspValid, hph]
  | resp => simp [offers, byteValid, rspValid, hph]

theorem offers_send {s : State} (hsend : s.ph = .send) (e : Edge) : offers s e = byteValid s e := by
  simp [offers, rspValid, hsend]

theorem offers_resp {s : State} (hresp : s.ph = .resp) (e : Edge) : offers s e = rspValid s e := by
  simp [offers, byteValid, hresp]

theorem answers_send {s : State} (hsend : s.ph = .send) (e : Edge) :
    answers s e = (e.byteReady || e.byteFail) := by
  simp [answers, hsend]

theorem answers_resp {s : State} (hresp : s.ph = .resp) (e : Edge) : answers s e = e.rspReady := by
  simp [answers, hresp]

/-- t is s but for the schedule and the pin-level memory: the operation has not moved. -/
structure State.Waits (s t : State) : Prop where
  ph : t.ph = s.ph
  buf : t.buf = s.buf
  n : t.n = s.n
  idx : t.idx = s.idx
  err : t.err = s.err
  fv : t.fv = s.fv
  sink : t.sink = s.sink
  operand : t.operand = s.operand
  history : t.history = s.history
  slot : t.slot = s.slot

theorem State.Waits.trans {s t u : State} (hst : s.Waits t) (htu : t.Waits u) : s.Waits u where
  ph := htu.ph.trans hst.ph
  buf := htu.buf.trans hst.buf
  n := htu.n.trans hst.n
  idx := htu.idx.trans hst.idx
  err := htu.err.trans hst.err
  fv := htu.fv.trans hst.fv
  sink := htu.sink.trans hst.sink
  operand := htu.operand.trans hst.operand
  history := htu.history.trans hst.history
  slot := htu.slot.trans hst.slot

/-- The schedule is no part of the operation. -/
theorem waits_inputs (s : State) (l : List Edge) : s.Waits { s with inputs := l } :=
  ⟨rfl, rfl, rfl, rfl, rfl, rfl, rfl, rfl, rfl, rfl⟩

theorem waits_passQuietly (s : State) (e : Edge) : s.Waits (passQuietly e (passEdge s)) :=
  ⟨rfl, rfl, rfl, rfl, rfl, rfl, rfl, rfl, rfl, rfl⟩

/-- What is offered has not changed either. -/
theorem State.Waits.offeredByte {s t : State} (h : s.Waits t) : offeredByte t = offeredByte s := by
  unfold Machine.offeredByte bufAt
  rw [h.buf, h.idx]

/-- Waiting keeps the invariant of an operation in flight. -/
theorem State.Waits.inv {s t : State} (h : s.Waits t) (hinv : s.Inv) (hbusy : s.ph ≠ .idle) :
    t.Inv := by
  refine ⟨?_, ?_, ?_, ?_, ?_, fun _ => h.ph ▸ hbusy, h.slot.trans hinv.slot⟩
  all_goals simp only [State.holdsSequence, h.ph, h.buf, h.n, h.idx, h.err, h.operand]
  · exact hinv.length_range
  · exact hinv.index_range
  · exact hinv.send
  · exact hinv.resp_ok
  · exact hinv.resp_fail

/-- Outside IDLE an edge without reset that does not answer an offer passes quietly (R30). -/
theorem step_of_unanswered {s : State} {e : Edge} (hedge : edge s = e) (hrst : e.rst = false)
    (hbusy : s.ph ≠ .idle) (h : (offers s e && answers s e) = false) :
    step s = .next (passQuietly e (passEdge s)) := by
  apply step_eq_passQuietly hedge hrst (fun hidle => absurd hidle hbusy)
  · rw [reqReady_of_not_idle e hbusy, Bool.and_false]
  all_goals
    cases hph : s.ph with
    | idle => exact absurd hph hbusy
    | send =>
      rw [offers_send hph, answers_send hph] at h
      simp [h, rspValid, hph]
    | resp =>
      rw [offers_resp hph, answers_resp hph] at h
      simp [h, byteValid, hph]

/-- Settles O51: every edge, those past the schedule too, passes quietly. -/
theorem unansweredByteWaitsForEver : Obligations.UnansweredByteWaitsForEver := by
  intro es s hsend hin hquiet k
  have hwaits : ∃ t : State, Sys2Proof.core.run k s = .next t ∧ s.Waits t := by
    induction k generalizing s es with
    | zero => exact ⟨s, rfl, waits_inputs s s.inputs⟩
    | succ k ih =>
      have hedge : (edge s).rst = false ∧ (edge s).byteReady = false ∧
          (edge s).byteFail = false := by
        rw [edge, hin]
        cases es with
        | nil => exact ⟨rfl, rfl, rfl⟩
        | cons e rest => exact hquiet e List.mem_cons_self
      obtain ⟨hrst, hready, hfail⟩ := hedge
      have hstep := step_of_unanswered_byte rfl hrst hsend hready hfail
      obtain ⟨t, hrun, ht⟩ := ih es.tail (passQuietly (edge s) (passEdge s)) hsend
        (congrArg List.tail hin) (fun e he => hquiet e (List.mem_of_mem_tail he))
      exact ⟨t, (run_succ hstep k).trans hrun, (waits_passQuietly s _).trans ht⟩
  obtain ⟨t, hrun, ht⟩ := hwaits
  exact ⟨t, hrun, ht.ph.trans hsend, ht.buf, ht.n, ht.idx, ht.err, ht.sink, ht.history⟩

/-! ### Runs over a schedule -/

/-- A step looks at the first edge of the schedule and leaves the others as they are. -/
theorem step_schedule {s t : State} {e : Edge} (l : List Edge)
    (h : step { s with inputs := [e] } = .next t) :
    step { s with inputs := e :: l } = .next { t with inputs := l } := by
  have hsame : transfer { s with inputs := e :: l } (edge { s with inputs := e :: l }) =
      transfer { s with inputs := [e] } (edge { s with inputs := [e] }) := rfl
  cases ht : transfer { s with inputs := [e] } (edge { s with inputs := [e] }) with
  | request i =>
    have hidle : s.ph = .idle := idle_of_request ht
    rw [step_eq_accept (s := { s with inputs := [e] }) hidle ht] at h
    cases h
    rw [step_eq_accept (s := { s with inputs := e :: l }) hidle (hsame.trans ht)]
    rfl
  | _ =>
    rw [step, ht] at h
    cases h
    rw [step, hsame, ht]
    rfl

theorem after_zero (s : State) (es : Nat → Edge) :
    s.after es 0 = .next { s with inputs := [] } := rfl

/-- The edges of a schedule from number k on. -/
def edgesFrom (es : Nat → Edge) (k : Nat) : Nat → Edge := fun i => es (k + i)

/-- A run over a schedule is its first edge and the run over the others. -/
theorem after_succ {s t : State} {es : Nat → Edge}
    (h : step { s with inputs := [es 0] } = .next t) (k : Nat) :
    s.after es (1 + k) = t.after (edgesFrom es 1) k := by
  have hmap : (List.range (k + 1)).map es = es 0 :: (List.range k).map (edgesFrom es 1) := by
    rw [List.range_succ_eq_map, List.map_cons, List.map_map]
    congr 1
    refine List.map_congr_left fun i _ => ?_
    rw [Function.comp_apply, edgesFrom, Nat.succ_eq_one_add]
  rw [State.after, Nat.add_comm, hmap, run_succ (step_schedule _ h)]
  rfl

/-- The first k edges lead from s to t: the run of s goes on as a run of t. -/
def State.Leads (s : State) (es : Nat → Edge) (k : Nat) (t : State) : Prop :=
  ∀ j, s.after es (k + j) = t.after (edgesFrom es k) j

theorem leads_refl (s : State) (es : Nat → Edge) : s.Leads es 0 { s with inputs := [] } := by
  intro j
  rw [Nat.zero_add, show edgesFrom es 0 = es from funext fun i => congrArg es (Nat.zero_add i)]
  rfl

theorem leads_step {s t : State} {es : Nat → Edge}
    (h : step { s with inputs := [es 0] } = .next t) : s.Leads es 1 t := after_succ h

theorem State.Leads.trans {s t u : State} {es : Nat → Edge} {j k : Nat} (hst : s.Leads es j t)
    (htu : t.Leads (edgesFrom es j) k u) : s.Leads es (j + k) u := by
  intro i
  have hfrom : edgesFrom (edgesFrom es j) k = edgesFrom es (j + k) :=
    funext fun i => congrArg es (Nat.add_assoc j k i).symm
  rw [Nat.add_assoc, hst, htu, hfrom]

/-- Where the edges lead is where the run over them ends. -/
theorem State.Leads.after_eq {s t : State} {es : Nat → Edge} {k : Nat} (h : s.Leads es k t) :
    s.after es k = .next { t with inputs := [] } := h 0

/-- The state after one quiet edge e, with no edge to come. -/
def State.passed (s : State) (e : Edge) : State := passQuietly e { s with inputs := [] }

theorem waits_passed (s : State) (e : Edge) : s.Waits (s.passed e) :=
  ⟨rfl, rfl, rfl, rfl, rfl, rfl, rfl, rfl, rfl, rfl⟩

/-- A quiet edge leaves the valid that was up at it raised (R31 (a)). -/
theorem passed_raised (s : State) (e : Edge) : (s.passed e).raised = offers s e := rfl

/-- An edge held back is one fewer to hold back (R31 (c), R131). -/
theorem passed_patience {s : State} {e : Edge} (h : holds s e = true) :
    (s.passed e).patience + 1 = s.patience := by
  rcases passQuietly_cases { s with inputs := [] } e with ⟨-, hp⟩ | ⟨hfree, -⟩
  · exact hp
  · exact absurd (h.symm.trans hfree) Bool.noConfusion

/-- The first edge outside IDLE, when it does not answer an offer. -/
theorem leads_passed {s : State} {es : Nat → Edge} (hrst : (es 0).rst = false)
    (hbusy : s.ph ≠ .idle) (h : (offers s (es 0) && answers s (es 0)) = false) :
    s.Leads es 1 (s.passed (es 0)) :=
  leads_step (step_of_unanswered (s := { s with inputs := [es 0] }) rfl hrst hbusy h)

/-! ### An offer comes and stays -/

/-- After an edge at which ENC offers or holds back, the offer is up or there is one edge fewer to
hold it back. -/
theorem passed_raised_or_patience {s : State} {k : Nat} (hbusy : s.ph ≠ .idle) (e : Edge)
    (h : s.raised = true ∨ s.patience ≤ k + 1) :
    (s.passed e).raised = true ∨ (s.passed e).patience ≤ k := by
  cases hoffer : offers s e with
  | true => exact .inl hoffer
  | false =>
    have hheld : ¬ (s.raised = true ∨ holds s e = false) := by
      rw [← offers_iff hbusy e, hoffer]
      exact Bool.false_ne_true
    obtain ⟨hdown, hholds⟩ := not_or.1 hheld
    have hpatience := passed_patience (Bool.eq_true_of_not_eq_false hholds)
    have hle := h.resolve_left hdown
    exact .inr (by omega)

/-- While nothing answers, the offer is up from the edge numbered `patience` on (R31, R131). -/
theorem offer_comes {s : State} {es : Nat → Edge} {k : Nat} (hrst : ∀ i, (es i).rst = false)
    (hbusy : s.ph ≠ .idle) (hquiet : ∀ i, answers s (es i) = false)
    (hk : s.raised = true ∨ s.patience ≤ k) :
    ∃ t, s.after es k = .next t ∧ s.Waits t ∧ offers t (es k) = true := by
  induction k generalizing s es with
  | zero =>
    refine ⟨_, after_zero s es, waits_inputs s [], (offers_iff hbusy _).2 ?_⟩
    rcases hk with hraised | hzero
    · exact .inl hraised
    · exact .inr (holds_of_patience_zero _ (Nat.le_zero.1 hzero))
  | succ k ih =>
    have hlead := leads_passed (es := es) (hrst 0) hbusy (by rw [hquiet 0, Bool.and_false])
    obtain ⟨t, hafter, hwaits, hoffer⟩ := ih (s := s.passed (es 0)) (es := edgesFrom es 1)
      (fun i => hrst _) hbusy (fun i => hquiet _) (passed_raised_or_patience hbusy (es 0) hk)
    rw [Nat.add_comm k 1]
    exact ⟨t, (hlead k).trans hafter, (waits_passed s (es 0)).trans hwaits, hoffer⟩

/-- Settles O52: what is offered in SEND is BUF[IDX], in RESP the response, and neither moves. -/
theorem offerComesAndStays : Obligations.OfferComesAndStays := by
  intro s es hrst
  refine ⟨fun hsend hquiet k hk => ?send, fun hresp hquiet k hk => ?resp⟩
  case send =>
    have hnone : ∀ i, answers s (es i) = false := by
      intro i
      obtain ⟨hready, hfail⟩ := hquiet i
      rw [answers_send hsend, hready, hfail]
      rfl
    obtain ⟨t, hafter, hwaits, hoffer⟩ := offer_comes hrst (by simp [hsend]) hnone (.inr hk)
    rw [offers_send (hwaits.ph.trans hsend)] at hoffer
    refine ⟨t, hafter, hoffer, fun b hb => ?_⟩
    rw [outputs_byteData hoffer, hwaits.offeredByte, offeredByte_eq hb]
  case resp =>
    have hnone : ∀ i, answers s (es i) = false := by
      intro i
      rw [answers_resp hresp, hquiet i]
    obtain ⟨t, hafter, hwaits, hoffer⟩ := offer_comes hrst (by simp [hresp]) hnone (.inr hk)
    rw [offers_resp (hwaits.ph.trans hresp)] at hoffer
    obtain ⟨herr, hcount, hfault⟩ := outputs_response hoffer
    exact ⟨t, hafter, hoffer, herr.trans hwaits.err, hcount.trans hwaits.idx,
      hfault.trans hwaits.fv⟩

end Sys2Proof.Machine
end

section
/-! SUPPORT. Liveness (R131): an offered operand is accepted once ENC's patience is used up, and an
operation all of whose offers are answered ends with its response. -/

namespace Sys2Proof.Machine

/-! ### The operand is accepted -/

/-- In IDLE with an empty slot, an edge that ENC holds back passes quietly. -/
theorem leads_passed_of_held {s : State} {es : Nat → Edge} (hidle : s.ph = .idle)
    (hslot : s.slot = none) (hrst : (es 0).rst = false) (hheld : holds s (es 0) = true) :
    s.Leads es 1 (s.passed (es 0)) := by
  have hheld' : holds { s with inputs := [es 0] } (es 0) = true := hheld
  refine leads_step (step_eq_passQuietly (s := { s with inputs := [es 0] }) rfl hrst
    (fun _ => hslot) ?_ ?_ ?_)
  · simp [reqReady, hheld']
  · simp [byteValid, hidle]
  · simp [rspValid, hidle]

/-- In IDLE with an empty slot, a request that ENC does not hold back is accepted at once. -/
theorem accepted_of_not_held {x : Operand} {s : State} {es : Nat → Edge} (hidle : s.ph = .idle)
    (hslot : s.slot = none) (hrst : (es 0).rst = false) (hvalid : (es 0).reqValid = true)
    (hx : (es 0).reqX = x) (hfree : holds s (es 0) = false) :
    ∃ t, s.after es 1 = .next t ∧
      AcceptedAs x (lengthClass x) (encodeBytes x) { s with inputs := [] } t := by
  obtain ⟨hrequest, -⟩ := stepRunsTheDecodedInstruction { s with inputs := [es 0] } (es 0) []
    hidle rfl hrst
  obtain ⟨hexec, -⟩ := encodeIsAccepted x { s with inputs := [] }
  obtain ⟨t, ht, hacc⟩ := hexec hidle
  have hstep := (hrequest hslot hvalid hfree _ rfl).trans (hx ▸ ht)
  have hnil : t.inputs = [] := hacc.inputs
  have hdone : { t with inputs := [] } = t := by rw [← hnil]
  exact ⟨t, (leads_step hstep).after_eq.trans (congrArg _ hdone), hacc⟩

/-- Every edge held back uses up one of ENC's patience; the first that is not accepts. -/
theorem accepted_within {x : Operand} {s : State} {es : Nat → Edge} {p : Nat} (hidle : s.ph = .idle)
    (hslot : s.slot = none)
    (hoffer : ∀ k, (es k).rst = false ∧ (es k).reqValid = true ∧ (es k).reqX = x)
    (hp : s.patience ≤ p) :
    ∃ k t, k ≤ p ∧ s.after es (k + 1) = .next t ∧
      AcceptedAs x (lengthClass x) (encodeBytes x) { s with inputs := [] } t := by
  induction p generalizing s es with
  | zero =>
    obtain ⟨hrst, hvalid, hx⟩ := hoffer 0
    have hfree := holds_of_patience_zero (es 0) (Nat.le_zero.1 hp)
    obtain ⟨t, hafter, hacc⟩ := accepted_of_not_held hidle hslot hrst hvalid hx hfree
    exact ⟨0, t, le_rfl, hafter, hacc⟩
  | succ p ih =>
    obtain ⟨hrst, hvalid, hx⟩ := hoffer 0
    cases hheld : holds s (es 0) with
    | false =>
      obtain ⟨t, hafter, hacc⟩ := accepted_of_not_held hidle hslot hrst hvalid hx hheld
      exact ⟨0, t, Nat.zero_le _, hafter, hacc⟩
    | true =>
      have hpatience := passed_patience hheld
      obtain ⟨k, t, hk, hafter, hacc⟩ := ih (s := s.passed (es 0)) (es := edgesFrom es 1) hidle
        hslot (fun i => hoffer _) (by omega)
      have hlead := leads_passed_of_held hidle hslot hrst hheld
      refine ⟨k + 1, t, Nat.succ_le_succ hk, ?_, hacc.n, hacc.buf, hacc.idx, hacc.err, hacc.ph,
        hacc.operand, hacc.raised, hacc.fv, hacc.sink, hacc.history, hacc.inputs, hacc.slot⟩
      rw [Nat.add_comm (k + 1) 1]
      exact (hlead (k + 1)).trans hafter

/-- Settles O53: from the patience the state has. -/
theorem offeredOperandIsAccepted : Obligations.OfferedOperandIsAccepted :=
  fun _ _ _ hidle hslot hoffer => accepted_within hidle hslot hoffer le_rfl

/-! ### Every offer is answered -/

/-- The agents go on doing their part. -/
theorem State.AgentsAnswer.of_leads {s t : State} {es : Nat → Edge} {k : Nat}
    (h : s.AgentsAnswer es) (hlead : s.Leads es k t) : t.AgentsAnswer (edgesFrom es k) where
  noReset i := h.noReset (k + i)
  byteAnswered i u hafter hvalid := by
    obtain ⟨m, hm, hanswer⟩ := h.byteAnswered (k + i) u ((hlead i).trans hafter) hvalid
    obtain ⟨j, rfl⟩ := Nat.exists_eq_add_of_le (Nat.le_of_add_right_le hm)
    exact ⟨j, by omega, hanswer⟩
  responseTaken i u hafter hvalid := by
    obtain ⟨m, hm, hanswer⟩ := h.responseTaken (k + i) u ((hlead i).trans hafter) hvalid
    obtain ⟨j, rfl⟩ := Nat.exists_eq_add_of_le (Nat.le_of_add_right_le hm)
    exact ⟨j, by omega, hanswer⟩

/-- An offer that is up is answered at some edge (the premises of R131). -/
theorem State.AgentsAnswer.exists_answer {s : State} {es : Nat → Edge} (h : s.AgentsAnswer es)
    (hoffer : offers s (es 0) = true) : ∃ m, answers s (es m) = true := by
  rcases Bool.or_eq_true _ _ ▸ hoffer with hvalid | hvalid
  · obtain ⟨hsend, -⟩ := (byteValid_iff s _).1 hvalid
    obtain ⟨m, -, hanswer⟩ := h.byteAnswered 0 _ (after_zero s es) hvalid
    exact ⟨m, by rw [answers_send hsend, Bool.or_eq_true]; exact hanswer⟩
  · obtain ⟨hresp, -⟩ := (rspValid_iff s _).1 hvalid
    obtain ⟨m, -, hanswer⟩ := h.responseTaken 0 _ (after_zero s es) hvalid
    exact ⟨m, by rw [answers_resp hresp]; exact hanswer⟩

/-- Some edges lead from s, waiting, to a state whose offer is answered at the next edge. -/
def State.GetsAnswer (s : State) (es : Nat → Edge) : Prop :=
  ∃ k t, s.Leads es k t ∧ s.Waits t ∧ offers t (es k) = true ∧ answers t (es k) = true

/-- A quiet first edge only puts the answer off. -/
theorem State.GetsAnswer.of_passed {s : State} {es : Nat → Edge}
    (hlead : s.Leads es 1 (s.passed (es 0))) (h : (s.passed (es 0)).GetsAnswer (edgesFrom es 1)) :
    s.GetsAnswer es := by
  obtain ⟨k, t, hleads, hwaits, hoffer, hanswer⟩ := h
  exact ⟨1 + k, t, hlead.trans hleads, (waits_passed s (es 0)).trans hwaits, hoffer, hanswer⟩

/-- An offer that is up stays up until an edge answers it (R31 (a)). -/
theorem getsAnswer_of_offer {s : State} {es : Nat → Edge} {m : Nat}
    (hrst : ∀ i, (es i).rst = false) (hbusy : s.ph ≠ .idle) (hoffer : offers s (es 0) = true)
    (hanswer : answers s (es m) = true) : s.GetsAnswer es := by
  induction m generalizing s es with
  | zero => exact ⟨0, _, leads_refl s es, waits_inputs s [], hoffer, hanswer⟩
  | succ m ih =>
    cases hfirst : answers s (es 0) with
    | true => exact ⟨0, _, leads_refl s es, waits_inputs s [], hoffer, hfirst⟩
    | false =>
      refine .of_passed (leads_passed (hrst 0) hbusy (by rw [hfirst, Bool.and_false])) ?_
      refine ih (s := s.passed (es 0)) (es := edgesFrom es 1) (fun i => hrst _) hbusy ?_ ?_
      · have hraised := (passed_raised s (es 0)).trans hoffer
        exact (offers_iff (s := s.passed (es 0)) hbusy _).2 (.inl hraised)
      · rw [edgesFrom, Nat.add_comm]
        exact hanswer

/-- Outside IDLE ENC's offer comes once its patience is used up, and is then answered (R131). -/
theorem getsAnswer_of_agents {s : State} {es : Nat → Edge} (h : s.AgentsAnswer es)
    (hbusy : s.ph ≠ .idle) : s.GetsAnswer es := by
  induction hp : s.patience generalizing s es with
  | zero =>
    have hoffer := (offers_iff hbusy (es 0)).2 (.inr (holds_of_patience_zero _ hp))
    obtain ⟨m, hanswer⟩ := h.exists_answer hoffer
    exact getsAnswer_of_offer h.noReset hbusy hoffer hanswer
  | succ p ih =>
    cases hoffer : offers s (es 0) with
    | true =>
      obtain ⟨m, hanswer⟩ := h.exists_answer hoffer
      exact getsAnswer_of_offer h.noReset hbusy hoffer hanswer
    | false =>
      have hlead := leads_passed (h.noReset 0) hbusy (by rw [hoffer, Bool.false_and])
      have hheld : holds s (es 0) = true := by
        by_contra hfree
        have hup := (offers_iff hbusy (es 0)).2 (.inr (Bool.eq_false_of_not_eq_true hfree))
        exact absurd (hup.symm.trans hoffer) Bool.noConfusion
      have hpatience := passed_patience hheld
      exact .of_passed hlead (ih (s := s.passed (es 0)) (h.of_leads hlead) hbusy (by omega))

/-! ### The operation ends -/

/-- From s the run ends in IDLE with the response r to its operand, after S has grown by l. -/
def State.EndsWith (s : State) (es : Nat → Edge) (r : Response) (l : List Byte) : Prop :=
  ∃ k t, s.Leads es k t ∧ t.ph = .idle ∧ t.history = s.history ++ [.responded s.operand r] ∧
    t.sink = s.sink ++ l

/-- u is further in the operation of s: nothing has ended, and S has grown by `bytes`. -/
structure State.GoesOn (s u : State) (bytes : List Byte) : Prop where
  history : u.history = s.history
  operand : u.operand = s.operand
  sink : u.sink = s.sink ++ bytes

/-- A run that leads further into the same operation ends as that one ends. -/
theorem State.EndsWith.of_leads {s u : State} {es : Nat → Edge} {k : Nat} {r : Response}
    {bytes l : List Byte} (hlead : s.Leads es k u) (hon : s.GoesOn u bytes)
    (h : u.EndsWith (edgesFrom es k) r l) : s.EndsWith es r (bytes ++ l) := by
  obtain ⟨j, t, hleads, hidle, hhist, hsink⟩ := h
  refine ⟨k + j, t, hlead.trans hleads, hidle, ?_, ?_⟩
  · rw [hhist, hon.history, hon.operand]
  · rw [hsink, hon.sink, List.append_assoc]

/-- An operation in RESP ends with its response, and S does not grow (R127). -/
theorem endsWith_of_resp {s : State} {es : Nat → Edge} (h : s.AgentsAnswer es)
    (hresp : s.ph = .resp) : s.EndsWith es (response s) [] := by
  obtain ⟨k, t, hlead, hwaits, hoffer, hanswer⟩ := getsAnswer_of_agents h (by simp [hresp])
  have hresp' : t.ph = .resp := hwaits.ph.trans hresp
  rw [offers_resp hresp'] at hoffer
  rw [answers_resp hresp'] at hanswer
  have hstep := step_eq_respond (s := { t with inputs := [es k] }) rfl (h.noReset k) hoffer hanswer
  have hresponse : response t = response s := by
    rw [response, response, hwaits.err, hwaits.idx, hwaits.fv]
  refine ⟨k + 1, _, hlead.trans (leads_step hstep), respond_ph _, ?_, ?_⟩
  · rw [← hwaits.history, ← hwaits.operand, ← hresponse]
    rfl
  · rw [List.append_nil, ← hwaits.sink]
    rfl

/-- The byte on offer in SEND comes to its answer: it fails, which leads to RESP with ERR = 1
(R126), or it is accepted, which leaves the operation in SEND or RESP with ERR = 0 (R124, R125). -/
theorem leads_byte_answered {s : State} {es : Nat → Edge} (hinv : s.Inv) (h : s.AgentsAnswer es)
    (hsend : s.ph = .send) :
    ∃ k u, s.Leads es k u ∧
      ((u.ph = .resp ∧ u.err = true ∧ s.GoesOn u []) ∨
        (u.Inv ∧ u.ph ≠ .idle ∧ u.err = false ∧ u.n = s.n ∧ u.idx.toNat = s.idx.toNat + 1 ∧
          ∃ b, s.GoesOn u [b])) := by
  obtain ⟨k, t, hlead, hwaits, hoffer, hanswer⟩ := getsAnswer_of_agents h (by simp [hsend])
  have hsend' : t.ph = .send := hwaits.ph.trans hsend
  rw [offers_send hsend'] at hoffer
  rw [answers_send hsend'] at hanswer
  cases hfail : (es k).byteFail with
  | true =>
    have hstep := step_eq_raiseSinkFail (s := { t with inputs := [es k] }) rfl (h.noReset k) hoffer
      hfail
    have hsink := hwaits.sink.trans (List.append_nil _).symm
    exact ⟨k + 1, _, hlead.trans (leads_step hstep),
      .inl ⟨rfl, rfl, hwaits.history, hwaits.operand, hsink⟩⟩
  | false =>
    rw [hfail, Bool.or_false] at hanswer
    obtain ⟨-, hup⟩ := (byteValid_iff t _).1 hoffer
    have hstep := step_eq_emitAccepted (s := { t with inputs := [es k] }) rfl (h.noReset k) hsend'
      hup hanswer hfail
    have hpast : State.Inv { t with inputs := [] } :=
      (hwaits.inv hinv (by simp [hsend])).withRun [] t.history
    obtain ⟨-, hok, -⟩ := hpast.send hsend'
    refine ⟨k + 1, _, hlead.trans (leads_step hstep), .inr ⟨inv_emitAccepted hpast hsend', ?_, hok,
      hwaits.n, ?_, offeredByte t, hwaits.history, hwaits.operand, ?_⟩⟩
    · rw [emitAccepted_ph]
      split <;> exact Phase.noConfusion
    · rw [← hwaits.idx]
      exact emitAccepted_idx_toNat hpast hsend'
    · rw [← hwaits.sink]
      rfl

/-- An operation in SEND ends after at most N - IDX further transfers, the failed one included. -/
theorem endsWith_of_send {s : State} {es : Nat → Edge} {d : Nat} (hinv : s.Inv)
    (h : s.AgentsAnswer es) (hsend : s.ph = .send) (hd : s.n.toNat ≤ s.idx.toNat + d) :
    ∃ r l, s.EndsWith es r l ∧ l.length + (if r.err then 1 else 0) ≤ d := by
  induction d generalizing s es with
  | zero =>
    obtain ⟨hlt, -⟩ := hinv.send hsend
    omega
  | succ d ih =>
    obtain ⟨k, u, hlead, ⟨hresp, hfail, hon⟩ | ⟨hinv', hbusy, hok, hn, hidx, b, hon⟩⟩ :=
      leads_byte_answered hinv h hsend
    · refine ⟨_, _, .of_leads hlead hon (endsWith_of_resp (h.of_leads hlead) hresp), ?_⟩
      simp [response, hfail]
    · cases hph : u.ph with
      | idle => exact absurd hph hbusy
      | resp =>
        refine ⟨_, _, .of_leads hlead hon (endsWith_of_resp (h.of_leads hlead) hph), ?_⟩
        simp [response, hok]
      | send =>
        obtain ⟨r, l, hends, hbound⟩ := ih hinv' (h.of_leads hlead) hph (by rw [hn]; omega)
        refine ⟨r, _, .of_leads hlead hon hends, ?_⟩
        rw [List.length_append, List.length_singleton]
        omega

/-- An operation in flight ends after nine transfers at most: N is 9 at most (R20). -/
theorem endsWith_of_busy {s : State} {es : Nat → Edge} (hinv : s.Inv) (hbusy : s.ph ≠ .idle)
    (h : s.AgentsAnswer es) :
    ∃ r l, s.EndsWith es r l ∧ l.length + (if r.err then 1 else 0) ≤ 9 := by
  obtain ⟨-, h9⟩ := hinv.length_range
  cases hph : s.ph with
  | idle => exact absurd hph hbusy
  | send => exact endsWith_of_send hinv h hph (by omega)
  | resp =>
    refine ⟨_, _, endsWith_of_resp h hph, ?_⟩
    rw [List.length_nil]
    split <;> decide

/-- Settles O54: the state where the operation ends, with its schedule used up. -/
theorem everyAcceptedOperationEnds : Obligations.EveryAcceptedOperationEnds := by
  intro s es hinv hbusy h
  obtain ⟨r, l, ⟨k, t, hlead, hidle, hhist, hsink⟩, hbound⟩ := endsWith_of_busy hinv hbusy h
  exact ⟨k, _, r, hlead.after_eq, hidle, hhist, l, hsink, hbound⟩

end Sys2Proof.Machine
end
